-- ==== Sys2Proof/Word.lean ====
section
/-! DEFINITION. The widths the spec fixes: a byte, the fetched 64-bit word, a 7-bit payload group (00_scope.md R5, R7). -/

namespace Sys2Proof

/-- One byte of the source or of the window. -/
abbrev Byte := BitVec 8

/-- The 64-bit word a fetch assembles. -/
abbrev Word := BitVec 64

/-- Bits 6..0 of an encoded byte: one 7-bit group of a value (30_encoding.md R91). -/
abbrev Payload := BitVec 7

end Sys2Proof
end

