-- ==== Sys2Proof/Config.lean ====
section
/-! DEFINITION. What an implementation fixes: the parameters of 00_scope.md R6 and the constants of 00_scope.md R5 and 10_state.md R37. -/

namespace Sys2Proof

/-- The two parameters the spec leaves to the implementation (00_scope.md R6), each with its
constraint carried as a proof: `W < 8` is refused by the spec (93 U18) and cannot be written down
here.  DESIGN CHOICE (log 1): the machine holds its parameters as data that no step changes. -/
structure Config where
  /-- AW: the width in bits of CURSOR, SRC_LEN, WBASE and WEND. -/
  aw : Nat
  /-- W: the size in bytes of the prefetch window. -/
  w : Nat
  aw_ge : 4 ≤ aw
  w_ge : 8 ≤ w
  deriving DecidableEq, Repr

/-- The defaults of 00_scope.md R6. -/
def Config.default : Config := { aw := 64, w := 256, aw_ge := by decide, w_ge := by decide }

/-- HIGHBITS: bit 7 of every byte lane (00_scope.md R5). -/
def HIGHBITS : Word := 0x8080808080808080

/-- PAYLOAD7: the seven payload bits of every byte lane (10_state.md R37). -/
def PAYLOAD7 : Word := 0x7F7F7F7F7F7F7F7F

/-- WORD_BYTES and MARGIN of 00_scope.md R5: bytes loaded as one word, and bytes that must remain
ahead of the cursor in the window for it to be used without a refresh. -/
abbrev WORD_BYTES : Nat := 8

/-- MAX_LEN of 00_scope.md R5: the longest run. -/
abbrev MAX_LEN : Nat := 6

end Sys2Proof
end

