-- ==== Sys2Proof/Syntax.lean ====
section
/-! DEFINITION. The instructions: one constructor per row of spec/opcode_table.json. -/

namespace Sys2Proof

/-- The two levels of 30_encoding.md R90: command codes on the command port, runs in the source. -/
inductive Level where
  | command
  | stream
  deriving DecidableEq, Repr

/-- Every row of the opcode table.  The commands have no operand (30_encoding.md R103); the
operands of a run are its payload groups, first byte first (30_encoding.md R93). -/
inductive Instr where
  /-- `CMD = 000` (41_reader_ops.md R151). -/
  | nop
  /-- `CMD = 001` (41_reader_ops.md R154). -/
  | decode
  /-- `CMD = 010` (41_reader_ops.md R155). -/
  | skip
  /-- `CMD = 011` (41_reader_ops.md R152). -/
  | bindD
  /-- `CMD = 111` (41_reader_ops.md R153). -/
  | bindB
  /-- `CMD = 100` (41_reader_ops.md R164). -/
  | reserved100
  /-- `CMD = 101` (41_reader_ops.md R164). -/
  | reserved101
  /-- `CMD = 110` (41_reader_ops.md R164). -/
  | reserved110
  /-- A run of one byte whose payload is not zero; payload zero is `sentinel` (log 7). -/
  | fui1 (p0 : Payload)
  | fui2 (p0 p1 : Payload)
  | fui3 (p0 p1 p2 : Payload)
  | fui4 (p0 p1 p2 p3 : Payload)
  | fui5 (p0 p1 p2 p3 p4 : Payload)
  | fui6 (p0 p1 p2 p3 p4 p5 : Payload)
  /-- No terminator in the first six lanes (30_encoding.md R95, R100). -/
  | malformed (p0 p1 p2 p3 p4 p5 : Payload)
  /-- The byte `80`: form FUI1 with payload zero (30_encoding.md R97). -/
  | sentinel
  deriving DecidableEq, Repr

/-- Which level an instruction belongs to. -/
def Instr.level : Instr → Level
  | .nop | .decode | .skip | .bindD | .bindB | .reserved100 | .reserved101 | .reserved110 => .command
  | .fui1 _ | .fui2 _ _ | .fui3 _ _ _ | .fui4 _ _ _ _ | .fui5 _ _ _ _ _ | .fui6 _ _ _ _ _ _
  | .malformed _ _ _ _ _ _ | .sentinel => .stream

end Sys2Proof
end

