-- ==== Sys2Proof/WellFormed.lean ====
section
/-! DEFINITION. Which instructions are well formed. -/

namespace Sys2Proof

/-- The one check: the word of `fui1 0` is the sentinel's word, and that word is read as `sentinel`
(30_encoding.md R97: the row SENTINEL is FUI1 with `P_0 = 0`; log 7).  Every other operand is
already limited by its width. -/
def Instr.wf : Instr → Bool
  | .fui1 p0 => p0 != 0
  | .nop | .decode | .skip | .bindD | .bindB | .reserved100 | .reserved101 | .reserved110 => true
  | .fui2 _ _ | .fui3 _ _ _ | .fui4 _ _ _ _ | .fui5 _ _ _ _ _ | .fui6 _ _ _ _ _ _ => true
  | .malformed _ _ _ _ _ _ | .sentinel => true

end Sys2Proof
end

