-- ==== Sys2Proof/Decode.lean ====
section
/-! DEFINITION. Decoding: command codes (30_encoding.md R103, R104) and runs by match and mask on the little-endian word (30_encoding.md R95, 20_memory.md R63), and the encoder after it. -/

namespace Sys2Proof

/-- `Assemble8` of 20_memory.md R63: the byte at the lowest offset is bits 7..0, and the lanes above
the list are zero. -/
def assemble8 : List Byte → Word
  | [] => 0
  | b :: bs => b.setWidth 64 ||| (assemble8 bs <<< 8)

/-- `P_i`: the seven payload bits of lane `i` (40_codec.md R127). -/
def group (w : Word) (i : Nat) : Payload := w.extractLsb' (8 * i) 7

/-- The command code of 30_encoding.md R104, every code of the three bits. -/
def decodeCommand (c : BitVec 3) : Instr :=
  match c.toNat with
  | 0 => .nop
  | 1 => .decode
  | 2 => .skip
  | 3 => .bindD
  | 4 => .reserved100
  | 5 => .reserved101
  | 6 => .reserved110
  | _ => .bindB

/-- One row of the table of 30_encoding.md R95: the length of the form (0 for the malformed row),
and the mask and value that select it. -/
structure FormRow where
  len : Nat
  mask : Word
  value : Word
  deriving DecidableEq, Repr

/-- The seven rows of 30_encoding.md R95. -/
def formRows : List FormRow :=
  [ ⟨1, 0x0000000000000080, 0x0000000000000080⟩,
    ⟨2, 0x0000000000008080, 0x0000000000008000⟩,
    ⟨3, 0x0000000000808080, 0x0000000000800000⟩,
    ⟨4, 0x0000000080808080, 0x0000000080000000⟩,
    ⟨5, 0x0000008080808080, 0x0000008000000000⟩,
    ⟨6, 0x0000808080808080, 0x0000800000000000⟩,
    ⟨0, 0x0000808080808080, 0x0000000000000000⟩ ]

/-- The row selects the word: `(w & mask) == match` (30_encoding.md R95). -/
def FormRow.selects (r : FormRow) (w : Word) : Bool := w &&& r.mask == r.value

/-- The length of the form that selects the word, 0 where the malformed row does. -/
def formLen (w : Word) : Nat := ((formRows.find? fun r => r.selects w).map FormRow.len).getD 0

/-- The run at the low end of a word.  The sentinel's row is the more special one and is asked
first (30_encoding.md R97; log 7). -/
def decodeRun (w : Word) : Instr :=
  if w &&& 0xFF == 0x80 then .sentinel else
  match formLen w with
  | 1 => .fui1 (group w 0)
  | 2 => .fui2 (group w 0) (group w 1)
  | 3 => .fui3 (group w 0) (group w 1) (group w 2)
  | 4 => .fui4 (group w 0) (group w 1) (group w 2) (group w 3)
  | 5 => .fui5 (group w 0) (group w 1) (group w 2) (group w 3) (group w 4)
  | 6 => .fui6 (group w 0) (group w 1) (group w 2) (group w 3) (group w 4) (group w 5)
  | _ => .malformed (group w 0) (group w 1) (group w 2) (group w 3) (group w 4) (group w 5)

/-- How many bytes an instruction takes (30_encoding.md R93, R103): a malformed run is judged on six
bytes (30_encoding.md R96). -/
def Instr.size : Instr → Nat
  | .nop | .decode | .skip | .bindD | .bindB | .reserved100 | .reserved101 | .reserved110 => 1
  | .fui1 _ | .sentinel => 1
  | .fui2 _ _ => 2
  | .fui3 _ _ _ => 3
  | .fui4 _ _ _ _ => 4
  | .fui5 _ _ _ _ _ => 5
  | .fui6 _ _ _ _ _ _ | .malformed _ _ _ _ _ _ => 6

/-- Why bytes are no instruction. -/
inductive DecodeError where
  /-- The command port was given nothing. -/
  | noCommand
  /-- The byte does not fit the three bits of the command port (30_encoding.md R103). -/
  | notThreeBits
  deriving DecidableEq, Repr

/-- The instruction at the head of the bytes, and the bytes after it.  At the stream level every
byte pattern is a run or malformed (30_encoding.md R100), fewer than six bytes without a terminator
among them; a command is one byte that holds its three-bit code. -/
def decode (l : Level) (bs : List Byte) : Except DecodeError (Instr × List Byte) :=
  match l with
  | .stream =>
    let i := decodeRun (assemble8 (bs.take WORD_BYTES))
    .ok (i, bs.drop i.size)
  | .command =>
    match bs with
    | [] => .error .noCommand
    | b :: rest => if b.toNat < 8 then .ok (decodeCommand (b.setWidth 3), rest) else .error .notThreeBits

/-- A byte of a run before its last: T = 0 (30_encoding.md R91). -/
def contByte (p : Payload) : Byte := p.setWidth 8

/-- The last byte of a run: T = 1 (30_encoding.md R91). -/
def termByte (p : Payload) : Byte := 0x80 ||| p.setWidth 8

/-- The bytes of an instruction: the code of 30_encoding.md R104 in one byte, or the run of
30_encoding.md R93. -/
def encode : Instr → List Byte
  | .nop => [0x00]
  | .decode => [0x01]
  | .skip => [0x02]
  | .bindD => [0x03]
  | .reserved100 => [0x04]
  | .reserved101 => [0x05]
  | .reserved110 => [0x06]
  | .bindB => [0x07]
  | .fui1 p0 => [termByte p0]
  | .fui2 p0 p1 => [contByte p0, termByte p1]
  | .fui3 p0 p1 p2 => [contByte p0, contByte p1, termByte p2]
  | .fui4 p0 p1 p2 p3 => [contByte p0, contByte p1, contByte p2, termByte p3]
  | .fui5 p0 p1 p2 p3 p4 => [contByte p0, contByte p1, contByte p2, contByte p3, termByte p4]
  | .fui6 p0 p1 p2 p3 p4 p5 =>
    [contByte p0, contByte p1, contByte p2, contByte p3, contByte p4, termByte p5]
  | .malformed p0 p1 p2 p3 p4 p5 =>
    [contByte p0, contByte p1, contByte p2, contByte p3, contByte p4, contByte p5]
  | .sentinel => [0x80]

/-- The six bytes of a table word: byte `i` is bits `8i+7..8i`, and the bits at and above `nbits` are
zero. -/
def tableBytes (nbits w : Nat) : List Byte :=
  (List.range MAX_LEN).map fun i => BitVec.ofNat 8 ((w % 2 ^ nbits) / 2 ^ (8 * i))

/-- Which level a table word belongs to: the table's command rows have three bits, so a word of at
most eight bits whose value is below 8 is a command code (log 8). -/
def tableLevel (nbits w : Nat) : Level :=
  if nbits ≤ 8 ∧ w % 2 ^ nbits < 8 then .command else .stream

/-- The instruction the decoder reads from a word numbered as spec/opcode_table.json numbers it. -/
def decodeTableWord (nbits w : Nat) : Option Instr :=
  match decode (tableLevel nbits w) (tableBytes nbits w) with
  | .ok (i, _) => some i
  | .error _ => none

end Sys2Proof
end

