-- ==== Sys2Proof/Machine/State.lean ====
section
/-! DEFINITION. The state of one reader block (10_state.md R20), its reset (10_state.md R40), what the host can do to it (60_exceptions.md R206) and what its ports carry. -/

namespace Sys2Proof.Machine

/-- The cause codes of 60_exceptions.md R190.  Codes 5, 6 and 7 are never written, so there is no
constructor for them. -/
inductive Cause where
  | none
  | overlong
  | truncated
  | notBound
  | illegalCommand
  deriving DecidableEq, Repr

/-- The five flags of STATUS, bits 0 to 4 (10_state.md R27). -/
structure Status where
  bound : Bool
  mode : Bool
  eos : Bool
  vvalid : Bool
  fault : Bool
  deriving DecidableEq, Repr

/-- The response a command posts (41_reader_ops.md R165). -/
structure Response where
  ok : Bool
  cause : BitVec 3
  value : BitVec 64
  len : BitVec 3
  eos : Bool
  vvalid : Bool
  deriving DecidableEq, Repr

/-- What the block drives on its output ports (92 D1): nothing here is read back by a rule. -/
inductive PortEvent where
  /-- `SrcRead(off, n)` on the source read port, `n > 0` (20_memory.md R62, R65). -/
  | srcRequest (off n : Nat)
  /-- The prefetch pulse, with the window index it carries (41_reader_ops.md R161). -/
  | prefetchHint (index : Nat)
  /-- The response of a command (41_reader_ops.md R165). -/
  | response (r : Response)
  /-- The data of a register read (10_state.md R38). -/
  | readData (v : Nat)
  deriving DecidableEq, Repr

/-- One action of the host, accepted while the block is idle (70_reset_and_hazards.md R226); `rst` alone
can also cut into the command it is accepted with (R220). -/
inductive HostAction where
  /-- A code on the command port (30_encoding.md R103). -/
  | command (code : BitVec 3)
  /-- A write of the register at an address of the register port (10_state.md R38, R39). -/
  | writeReg (addr : BitVec 3) (data : Nat)
  /-- A read of the register at an address of the register port (10_state.md R38). -/
  | readReg (addr : BitVec 3)
  /-- The host puts bytes into the source, from an offset on (70_reset_and_hazards.md R222 step 1). -/
  | fill (off : Nat) (bytes : List Byte)
  /-- The `rst` input while no command is in execution (70_reset_and_hazards.md R220). -/
  | rst
  /-- A code on the command port, and `rst` while that command is in execution
  (70_reset_and_hazards.md R220).  `seen` is how many of the command's source requests and prefetch
  pulses have appeared on the ports by then: no rule fixes it, so the host's script does (log 12). -/
  | rstDuring (code : BitVec 3) (seen : Nat)
  deriving DecidableEq, Repr

/-- Bytes by address, in one canonical form (`Memory.wf`): addresses strictly rising, no entry equal
to what an unlisted address reads as. -/
abbrev Memory := List Host.Cell

/-- The whole state.  Offsets are natural numbers because all offset arithmetic is over the integers
(00_scope.md R8); every register write keeps its AW bits, so they stay below `2^AW`
(DEDUCED, log 2). -/
structure State where
  /-- The parameters AW and W (00_scope.md R6): no step changes them. -/
  cfg : Config
  /-- CURSOR, the block's program counter (10_state.md R21). -/
  cursor : Nat
  /-- SRC_LEN, the true end of the source (10_state.md R24). -/
  srcLen : Nat
  /-- VALUE, the last decoded value (10_state.md R25). -/
  value : BitVec 64
  /-- LEN, the last consumed length (10_state.md R26). -/
  len : BitVec 3
  /-- STATUS (10_state.md R27). -/
  status : Status
  /-- CAUSE (10_state.md R33). -/
  cause : Cause
  /-- WBASE, hidden: the source offset of the window's first byte (10_state.md R34). -/
  wbase : Nat
  /-- WEND, hidden: the source offset after the window's last valid byte (10_state.md R34). -/
  wend : Nat
  /-- WIN, hidden: the window's bytes by index (10_state.md R34). -/
  win : Memory
  /-- SRC: the source's bytes by offset, borrowed read-only (10_state.md R41, 20_memory.md R60). -/
  src : Memory
  /-- The model's own: the history mark of 60_exceptions.md R201 (log 14). -/
  everFaulted : Bool
  /-- The model's own: what the ports carried during the last step, in order (log 9). -/
  io : List PortEvent
  /-- The model's own: the host's actions still to come, in order (log 5). -/
  pending : List HostAction
  deriving DecidableEq, Repr

/-- Reasons to stop with a fault.  The block's own faults are latched in STATUS and CAUSE and are
NEXT states; no instruction stops. -/
inductive Fault where
  /-- Raised by a host `fill` that reaches offset `2^AW - 1` or above: the source has at most
  `2^AW - 1` bytes (20_memory.md R60), so no such offset exists.  Safe: the run stops (log 11). -/
  | noSuchOffset
  deriving DecidableEq, Repr

/-- Reasons to refuse a step. -/
inductive Refusal where
  /-- An instruction that has no meaning in the model, by its mnemonic.  Raised by no arm.  Safe. -/
  | notModelled (mnemonic : String)
  /-- Raised by a host `fill` that changes a byte below SRC_LEN while BOUND is 1: the spec assigns it
  no meaning (20_memory.md R71, 60_exceptions.md R206, 93 U6).  Safe: the run stops (log 10). -/
  | sourceChangedWhileBound
  deriving DecidableEq, Repr

/-- The outcome of a step of this machine. -/
abbrev Outcome := Host.Outcome State Fault Refusal

/-- STATUS after reset: 0x00 (10_state.md R40). -/
def Status.zero : Status := { bound := false, mode := false, eos := false, vvalid := false, fault := false }

/-- The block after reset for given parameters (10_state.md R40): every register zero; the window
bytes, which the spec leaves unspecified, zero (DESIGN CHOICE, log 3); no source byte listed. -/
def State.resetWith (cfg : Config) : State :=
  { cfg := cfg, cursor := 0, srcLen := 0, value := 0, len := 0, status := Status.zero,
    cause := .none, wbase := 0, wend := 0, win := [], src := [], everFaulted := false,
    io := [], pending := [] }

/-- The block after reset at the default parameters of 00_scope.md R6. -/
def State.reset : State := State.resetWith Config.default

end Sys2Proof.Machine
end

