-- ==== Sys2Proof/Machine/Flags.lean ====
section
/-! DEFINITION. STATUS and CAUSE: their bits as software reads them, and every computation of a flag. -/

namespace Sys2Proof.Machine

/-- The code of a cause (60_exceptions.md R190). -/
def Cause.code : Cause → BitVec 3
  | .none => 0
  | .overlong => 1
  | .truncated => 2
  | .notBound => 3
  | .illegalCommand => 4

/-- The eight bits of STATUS: BOUND, MODE, EOS, VVALID, FAULT in bits 0 to 4, bits 7..5 zero
(10_state.md R27). -/
def Status.toByte (st : Status) : BitVec 8 :=
  BitVec.ofNat 8 (st.bound.toNat + 2 * st.mode.toNat + 4 * st.eos.toNat + 8 * st.vvalid.toNat
    + 16 * st.fault.toNat)

/-- After a successful DECODE: `EOS <- (value == 0)`, `VVALID <- 1` (10_state.md R30, R31). -/
def Status.afterDecode (value : Nat) (st : Status) : Status :=
  { st with eos := value == 0, vvalid := true }

/-- After a successful SKIP: `EOS <- 0`, `VVALID <- 0` (10_state.md R30, R31). -/
def Status.afterSkip (st : Status) : Status :=
  { st with eos := false, vvalid := false }

/-- After a BIND: BOUND set, MODE the reader form, EOS and VVALID cleared (41_reader_ops.md R152,
R153). FAULT is cleared by `clearFault`. -/
def Status.afterBind (buffered : Bool) (st : Status) : Status :=
  { st with bound := true, mode := buffered, eos := false, vvalid := false }

/-- After a host write of SRC_LEN: BOUND cleared (10_state.md R39). -/
def Status.unbind (st : Status) : Status :=
  { st with bound := false }

end Sys2Proof.Machine
end

