-- ==== Sys2Proof/Machine/Ops.lean ====
section
/-! DEFINITION. The named operations over memory and registers: reading and writing bytes, the source read primitive, the response, taking a fault and clearing one. -/

namespace Sys2Proof.Machine

/-- What an address that is not listed reads as.  The spec gives no contents to a source byte the host
has not filled, nor to a window byte after reset (DESIGN CHOICE, logs 3 and 4). -/
def Memory.unlisted : Byte := 0

/-- The byte at an address. -/
def Memory.read : Memory → Nat → Byte
  | [], _ => Memory.unlisted
  | (b, u) :: m, a => if a = b then u else Memory.read m a

/-- Write one byte, keeping the canonical form: an entry equal to what an unlisted address reads as
is removed. -/
def Memory.write : Memory → Nat → Byte → Memory
  | [], a, v => if v = Memory.unlisted then [] else [(a, v)]
  | (b, u) :: m, a, v =>
    if a < b then (if v = Memory.unlisted then (b, u) :: m else (a, v) :: (b, u) :: m)
    else if a = b then (if v = Memory.unlisted then m else (a, v) :: m)
    else (b, u) :: Memory.write m a v

/-- Write bytes at consecutive addresses, from an address on. -/
def Memory.writeList : Memory → Nat → List Byte → Memory
  | m, _, [] => m
  | m, a, v :: vs => Memory.writeList (Memory.write m a v) (a + 1) vs

/-- The canonical form above a bound: addresses at least `lo`, strictly rising, no entry equal to what
an unlisted address reads as. -/
def Memory.wfFrom : Nat → Memory → Bool
  | _, [] => true
  | lo, (a, v) :: m => decide (lo ≤ a) && v != Memory.unlisted && Memory.wfFrom (a + 1) m

/-- The canonical form. -/
def Memory.wf (m : Memory) : Bool := Memory.wfFrom 0 m

/-- Bytes at consecutive addresses, from an address on. -/
def Memory.readList (m : Memory) (a n : Nat) : List Byte := (List.range n).map fun i => m.read (a + i)

/-- `SrcRead(o, n)`: the bytes `SRC[o] .. SRC[o+n-1]` (20_memory.md R62).  Every caller clips `n` to
`SRC_LEN - o` first. -/
def srcRead (s : State) (o n : Nat) : List Byte := s.src.readList o n

/-- Something appears on an output port. -/
def State.emit (s : State) (e : PortEvent) : State := { s with io := s.io ++ [e] }

/-- The request of a `SrcRead` on the source read port: none when `n = 0` (20_memory.md R62). -/
def requestSource (o n : Nat) (s : State) : State :=
  if n = 0 then s else s.emit (.srcRequest o n)

/-- The fields of a response mirror the registers (41_reader_ops.md R165). -/
def State.responseWith (ok : Bool) (s : State) : Response :=
  { ok := ok, cause := s.cause.code, value := s.value, len := s.len,
    eos := s.status.eos, vvalid := s.status.vvalid }

/-- Every command ends by posting one response (41_reader_ops.md R165). -/
def respond (ok : Bool) (s : State) : State := s.emit (.response (s.responseWith ok))

/-- TAKING A FAULT, `raise F(cause)` of 60_exceptions.md R199: FAULT set, CAUSE written, response
`ok = 0`, and nothing else host-visible.  There is no handler, vector or saved register.  The history
mark of 60_exceptions.md R201 is set. -/
def raise (c : Cause) (s : State) : State :=
  respond false { s with status := { s.status with fault := true }, cause := c, everFaulted := true }

/-- LEAVING A FAULT: FAULT and CAUSE cleared, nothing restored because nothing was saved
(60_exceptions.md R201).  Called by BIND only; reset clears them too. -/
def clearFault (s : State) : State :=
  { s with status := { s.status with fault := false }, cause := .none }

/-- A command refused while a fault is latched: no state changes, response `ok = 0`
(60_exceptions.md R200). -/
def refuse (s : State) : State := respond false s

/-- Check 3 of `Execute` (41_reader_ops.md R150): a latched fault refuses the command before anything
else is looked at. -/
def unlessFaulted (s : State) (k : State → State) : State :=
  if s.status.fault then refuse s else k s

end Sys2Proof.Machine
end

