-- ==== Sys2Proof/Machine/Codec.lean ====
section
/-! DEFINITION. The pure decode functions of 40_codec.md over a fetched pair, and the word primitives of 00_scope.md R10. -/

namespace Sys2Proof.Machine

/-- `ctz64(x)`: the index of the lowest set bit, and nothing for 0, where it is not defined
(00_scope.md R10; log 17). -/
def ctz64 (x : Word) : Option Nat := (List.range 64).find? fun i => x.getLsbD i

/-- The word whose bits 0 to `p` are 1. -/
def lowBits (p : Nat) : Word := BitVec.ofNat 64 (2 ^ (p + 1) - 1)

/-- `lowmask64(x)`: bits 0 up to the lowest set bit, and nothing for 0 (00_scope.md R10). -/
def lowmask64 (x : Word) : Option Word := (ctz64 x).map lowBits

/-- `pext64(x, m)`: the bits of `x` at the set bits of `m`, packed in increasing order
(00_scope.md R10). -/
def pext64 (x m : Word) : Nat :=
  (List.range 64).foldr (fun i acc => if m.getLsbD i then (x.getLsbD i).toNat + 2 * acc else acc) 0

/-- `HighBits(w)` (40_codec.md R120). -/
def highBits (w : Word) : Word := w &&& HIGHBITS

/-- The two malformed inputs (30_encoding.md R100). -/
inductive Malformed where
  | overlong
  | truncated
  deriving DecidableEq, Repr

/-- The cause a malformed input raises (60_exceptions.md R191, R192). -/
def Malformed.cause : Malformed → Cause
  | .overlong => .overlong
  | .truncated => .truncated

/-- The result of a terminator search: the consumed length, or why there is no run
(40_codec.md R121). -/
inductive Found where
  | ok (len : Nat)
  | malformed (sub : Malformed)
  deriving DecidableEq, Repr

/-- The result of a decode: value and consumed length, or why there is no run (40_codec.md R128). -/
inductive Decoded where
  | ok (value len : Nat)
  | malformed (sub : Malformed)
  deriving DecidableEq, Repr

/-- `FindTerm(w, avail)` (40_codec.md R121). -/
def findTerm (w : Word) (avail : Nat) : Found :=
  match ctz64 (highBits w) with
  | some p => if p / 8 + 1 ≤ MAX_LEN then .ok (p / 8 + 1) else .malformed .overlong
  | none => if MAX_LEN ≤ avail then .malformed .overlong else .malformed .truncated

/-- `MaskByTable(len)`: the table MASK of 10_state.md R37.  There is no entry outside 1 to 6 and no
rule asks for one (40_codec.md R123; log 17). -/
def maskByTable : Nat → Word
  | 1 => 0x000000000000007F
  | 2 => 0x0000000000007F7F
  | 3 => 0x00000000007F7F7F
  | 4 => 0x000000007F7F7F7F
  | 5 => 0x0000007F7F7F7F7F
  | 6 => 0x00007F7F7F7F7F7F
  | _ => 0

/-- `MaskByLowest(hb)` (40_codec.md R124). -/
def maskByLowest (hb : Word) : Option Word := (lowmask64 hb).map fun m => m &&& PAYLOAD7

/-- `Extract(w, len)` (40_codec.md R126). -/
def extract (w : Word) (len : Nat) : Nat := pext64 w (maskByTable len)

/-- `DecodeWord(w, avail)` (40_codec.md R128), with the mask from the table. -/
def decodeWord (w : Word) (avail : Nat) : Decoded :=
  match findTerm w avail with
  | .ok len => .ok (extract w len) len
  | .malformed sub => .malformed sub

/-- `DecodeWord` in formulation (a) of 40_codec.md R124: the mask comes straight from the isolated
high bits. -/
def decodeWordByLowest (w : Word) (avail : Nat) : Decoded :=
  match findTerm w avail, maskByLowest (highBits w) with
  | .ok len, some m => .ok (pext64 w m) len
  | .ok _, none => .malformed .truncated
  | .malformed sub, _ => .malformed sub

/-- `SkipWord(w, avail)` (40_codec.md R129). -/
def skipWord (w : Word) (avail : Nat) : Found := findTerm w avail

/-- The value of a run from its payload groups, first byte least significant (30_encoding.md R94). -/
def runValue : List Payload → Nat
  | [] => 0
  | p :: ps => p.toNat + 2 ^ 7 * runValue ps

end Sys2Proof.Machine
end

