-- ==== Sys2Proof/Machine/Operands.lean ====
section
/-! DEFINITION. The one operand form, the fetch at the cursor, direct and buffered (41_reader_ops.md R156 to R161), and the window operations it uses. -/

namespace Sys2Proof.Machine

/-- The bytes of the source at the cursor, clipped to the true end and to eight: what every fetch of a
bound reader is to see (41_reader_ops.md R156). -/
def State.bytesAhead (s : State) : List Byte :=
  srcRead s s.cursor (min WORD_BYTES (s.srcLen - s.cursor))

/-- What a fetch gives: the word, the count of its valid low lanes, and the state with the fetch's
requests, hint and refresh done. -/
structure Fetched where
  word : Word
  avail : Nat
  after : State
  deriving DecidableEq, Repr

/-- `Fetch8Direct()` (41_reader_ops.md R157): the read is clipped to the true end. -/
def fetch8Direct (s : State) : Fetched :=
  let a := if s.cursor < s.srcLen then min WORD_BYTES (s.srcLen - s.cursor) else 0
  { word := assemble8 (srcRead s s.cursor a), avail := a, after := requestSource s.cursor a s }

/-- `NeedRefresh()` (41_reader_ops.md R159).  The integer test `WEND - CURSOR < 8` is written as a sum
so that it needs no negative number. -/
def needRefresh (s : State) : Bool := s.cursor < s.wbase || s.wend < s.cursor + WORD_BYTES

/-- `Refill()` (41_reader_ops.md R160).  Window bytes past the copied chunk keep what they held. -/
def refill (s : State) : State :=
  if s.cursor < s.srcLen then
    let n := min s.cfg.w (s.srcLen - s.cursor)
    { requestSource s.cursor n s with
      win := s.win.writeList 0 (srcRead s s.cursor n), wbase := s.cursor, wend := s.cursor + n }
  else
    { s with wbase := s.srcLen, wend := s.srcLen }

/-- `PrefetchHint()` (41_reader_ops.md R161): a pulse that carries the window index and changes
nothing. -/
def prefetchHint (s : State) : State := s.emit (.prefetchHint (s.cursor - s.wbase))

/-- `Fetch8Buffered()` (41_reader_ops.md R158): refresh if needed, hint, read the window. -/
def fetch8Buffered (s : State) : Fetched :=
  let s1 := prefetchHint (if needRefresh s then refill s else s)
  let a := min WORD_BYTES (s1.wend - s1.cursor)
  { word := assemble8 (s1.win.readList (s1.cursor - s1.wbase) a), avail := a, after := s1 }

/-- `Fetch8()` (41_reader_ops.md R156). -/
def fetch8 (s : State) : Fetched := if s.status.mode then fetch8Buffered s else fetch8Direct s

/-- The frame of a data command: checks 3, 5 and 6 of `Execute` (41_reader_ops.md R150), then the
fetch, then what the command does with the fetched pair. -/
def dataCommand (s : State) (finish : Word → Nat → State → State) : State :=
  unlessFaulted s fun s =>
    if s.status.bound then
      let f := fetch8 s
      finish f.word f.avail f.after
    else raise .notBound s

end Sys2Proof.Machine
end

