-- ==== Sys2Proof/Machine/Command.lean ====
section
/-! DEFINITION. The commands: one meaning per code of 30_encoding.md R104. -/

namespace Sys2Proof.Machine

/-- The construction both BINDs share (41_reader_ops.md R152): BOUND, MODE, results and fault
cleared; CURSOR, SRC_LEN and the window unchanged. -/
def construct (buffered : Bool) (s : State) : State :=
  let s := clearFault s
  { s with status := s.status.afterBind buffered, value := 0, len := 0 }

/-- What a successful DECODE writes (41_reader_ops.md R154).  The sum is exact: a run never passes the
true end (10_state.md R23). -/
def completeDecode (value len : Nat) (s : State) : State :=
  respond true
    { s with
      value := BitVec.ofNat 64 value, len := BitVec.ofNat 3 len,
      status := s.status.afterDecode value, cursor := s.cursor + len }

/-- What a successful SKIP writes (41_reader_ops.md R155): VALUE is unchanged. -/
def completeSkip (len : Nat) (s : State) : State :=
  respond true
    { s with len := BitVec.ofNat 3 len, status := s.status.afterSkip, cursor := s.cursor + len }

/-- DECODE on a fetched pair (41_reader_ops.md R154). -/
def finishDecode (w : Word) (avail : Nat) (s : State) : State :=
  match decodeWord w avail with
  | .ok value len => completeDecode value len s
  | .malformed sub => raise sub.cause s

/-- SKIP on a fetched pair (41_reader_ops.md R155). -/
def finishSkip (w : Word) (avail : Nat) (s : State) : State :=
  match skipWord w avail with
  | .ok len => completeSkip len s
  | .malformed sub => raise sub.cause s

/-- IllegalCommand, after check 3 of `Execute` (41_reader_ops.md R164, 60_exceptions.md R194). -/
def reservedCode (s : State) : State := unlessFaulted s (raise .illegalCommand)

/-- NOP (41_reader_ops.md R151): never refused. -/
def execNop (s : State) : Outcome := .next (respond true s)

/-- DECODE (41_reader_ops.md R154). -/
def execDecode (s : State) : Outcome := .next (dataCommand s finishDecode)

/-- SKIP (41_reader_ops.md R155). -/
def execSkip (s : State) : Outcome := .next (dataCommand s finishSkip)

/-- BIND.D (41_reader_ops.md R152). -/
def execBindD (s : State) : Outcome := .next (respond true (construct false s))

/-- BIND.B (41_reader_ops.md R153): the construction, then the first window. -/
def execBindB (s : State) : Outcome := .next (respond true (refill (construct true s)))

/-- The reserved code 100 (41_reader_ops.md R164). -/
def execReserved100 (s : State) : Outcome := .next (reservedCode s)

/-- The reserved code 101 (41_reader_ops.md R164). -/
def execReserved101 (s : State) : Outcome := .next (reservedCode s)

/-- The reserved code 110 (41_reader_ops.md R164). -/
def execReserved110 (s : State) : Outcome := .next (reservedCode s)

end Sys2Proof.Machine
end

