-- ==== Sys2Proof/Machine/Run.lean ====
section
/-! DEFINITION. The stream level: what a DECODE does when the run at the cursor is the one named (30_encoding.md R93 to R100; DEDUCED, log 6). -/

namespace Sys2Proof.Machine

/-- A DECODE that consumes the run with these payload groups: the value of 30_encoding.md R94, the
number of groups as length.  A run with more bytes than are available before the true end is
truncated (60_exceptions.md R192; DEDUCED, log 15): a fetch never reads one. -/
def consumeRun (ps : List Payload) (s : State) : State :=
  dataCommand s fun _ avail s1 =>
    if ps.length ≤ avail then completeDecode (runValue ps) ps.length s1 else raise .truncated s1

/-- A DECODE that finds no terminator in six lanes: OVERLONG when at least six bytes were available,
else TRUNCATED (30_encoding.md R100, 60_exceptions.md R191, R192). -/
def meetMalformed (s : State) : State :=
  dataCommand s fun _ avail s1 => raise (if MAX_LEN ≤ avail then .overlong else .truncated) s1

/-- FUI1 (30_encoding.md R93, R94). -/
def execFui1 (p0 : Payload) (s : State) : Outcome := .next (consumeRun [p0] s)

/-- FUI2 (30_encoding.md R93, R94). -/
def execFui2 (p0 p1 : Payload) (s : State) : Outcome := .next (consumeRun [p0, p1] s)

/-- FUI3 (30_encoding.md R93, R94). -/
def execFui3 (p0 p1 p2 : Payload) (s : State) : Outcome := .next (consumeRun [p0, p1, p2] s)

/-- FUI4 (30_encoding.md R93, R94). -/
def execFui4 (p0 p1 p2 p3 : Payload) (s : State) : Outcome :=
  .next (consumeRun [p0, p1, p2, p3] s)

/-- FUI5 (30_encoding.md R93, R94). -/
def execFui5 (p0 p1 p2 p3 p4 : Payload) (s : State) : Outcome :=
  .next (consumeRun [p0, p1, p2, p3, p4] s)

/-- FUI6 (30_encoding.md R93, R94, R99): all 42 payload bits. -/
def execFui6 (p0 p1 p2 p3 p4 p5 : Payload) (s : State) : Outcome :=
  .next (consumeRun [p0, p1, p2, p3, p4, p5] s)

/-- MALFORMED (30_encoding.md R100): the payload bits decide nothing. -/
def execMalformed (_p0 _p1 _p2 _p3 _p4 _p5 : Payload) (s : State) : Outcome :=
  .next (meetMalformed s)

/-- SENTINEL (30_encoding.md R97): an ordinary run of one byte with payload zero. -/
def execSentinel (s : State) : Outcome := .next (consumeRun [0] s)

end Sys2Proof.Machine
end

