-- ==== Sys2Proof/Machine/Dispatch.lean ====
section
/-! DEFINITION. One arm per constructor of Instr: each instruction's meaning. -/

namespace Sys2Proof.Machine

open Sys2Proof

def exec (i : Instr) (s : State) : Host.Outcome State Fault Refusal :=
  match i with
  | .nop => Sys2Proof.Machine.execNop s
  | .decode => Sys2Proof.Machine.execDecode s
  | .skip => Sys2Proof.Machine.execSkip s
  | .bindD => Sys2Proof.Machine.execBindD s
  | .bindB => Sys2Proof.Machine.execBindB s
  | .reserved100 => Sys2Proof.Machine.execReserved100 s
  | .reserved101 => Sys2Proof.Machine.execReserved101 s
  | .reserved110 => Sys2Proof.Machine.execReserved110 s
  | .fui1 p0 => Sys2Proof.Machine.execFui1 p0 s
  | .fui2 p0 p1 => Sys2Proof.Machine.execFui2 p0 p1 s
  | .fui3 p0 p1 p2 => Sys2Proof.Machine.execFui3 p0 p1 p2 s
  | .fui4 p0 p1 p2 p3 => Sys2Proof.Machine.execFui4 p0 p1 p2 p3 s
  | .fui5 p0 p1 p2 p3 p4 => Sys2Proof.Machine.execFui5 p0 p1 p2 p3 p4 s
  | .fui6 p0 p1 p2 p3 p4 p5 => Sys2Proof.Machine.execFui6 p0 p1 p2 p3 p4 p5 s
  | .malformed p0 p1 p2 p3 p4 p5 => Sys2Proof.Machine.execMalformed p0 p1 p2 p3 p4 p5 s
  | .sentinel => Sys2Proof.Machine.execSentinel s

end Sys2Proof.Machine
end

