-- ==== Sys2Proof/Machine/HostPort.lean ====
section
/-! DEFINITION. The host's actions other than commands: the register port (10_state.md R38, R39), filling the source, and reset. -/

namespace Sys2Proof.Machine

/-- A value taken into an AW-bit register: its low AW bits (10_state.md R38). -/
def registerBits (cfg : Config) (d : Nat) : Nat := d % 2 ^ cfg.aw

/-- What a read of the register at an address returns, zero-extended (10_state.md R38). -/
def readReg (s : State) (addr : BitVec 3) : Nat :=
  match addr.toNat with
  | 0 => s.cursor
  | 1 => s.srcLen
  | 2 => s.value.toNat
  | 3 => s.len.toNat
  | 4 => s.status.toByte.toNat
  | 5 => s.cause.code.toNat
  | _ => 0

/-- A write of the register at an address (10_state.md R38, R39): CURSOR changes CURSOR only, SRC_LEN
also unbinds, every other address ignores it. -/
def writeReg (addr : BitVec 3) (d : Nat) (s : State) : State :=
  match addr.toNat with
  | 0 => { s with cursor := registerBits s.cfg d }
  | 1 => { s with srcLen := registerBits s.cfg d, status := s.status.unbind }
  | _ => s

/-- Does putting these bytes at this offset change a byte below SRC_LEN (20_memory.md R71)? -/
def changesSource (s : State) (off : Nat) (bs : List Byte) : Bool :=
  (List.range bs.length).any fun i =>
    decide (off + i < s.srcLen) && bs.getD i 0 != s.src.read (off + i)

/-- The host puts bytes into the source (70_reset_and_hazards.md R222 step 1).  No offset at or above
`2^AW - 1` exists (20_memory.md R60; log 11); a change of the bound source is refused (20_memory.md
R71; log 10). -/
def hostFill (off : Nat) (bs : List Byte) (s : State) : Outcome :=
  if bs ≠ [] ∧ 2 ^ s.cfg.aw - 1 < off + bs.length then .fault .noSuchOffset
  else if s.status.bound && changesSource s off bs then .refused .sourceChangedWhileBound
  else .next { s with src := s.src.writeList off bs }

/-- A register read: the data appears on the port and no state changes (10_state.md R38). -/
def hostRead (addr : BitVec 3) (s : State) : Outcome := .next (s.emit (.readData (readReg s addr)))

/-- A register write (10_state.md R39). -/
def hostWrite (addr : BitVec 3) (d : Nat) (s : State) : Outcome := .next (writeReg addr d s)

/-- `rst` (70_reset_and_hazards.md R220): every piece of state takes its reset value; the source
bytes are not part of the block and stay; the parameters and the host's script stay. -/
def hostReset (s : State) : Outcome :=
  .next { State.resetWith s.cfg with src := s.src, io := s.io, pending := s.pending }

/-- The event is none of the responses. -/
def PortEvent.isTraffic : PortEvent → Bool
  | .response _ => false
  | .srcRequest _ _ | .prefetchHint _ | .readData _ => true

/-- What a command has driven on the ports before its response, which is the last event
(41_reader_ops.md R165). -/
def trafficOf : Outcome → List PortEvent
  | .next t => t.io.filter PortEvent.isTraffic
  | .fault _ => []
  | .refused _ => []

/-- `rst` while a command is in execution (70_reset_and_hazards.md R220): the command is abandoned
without a response, and the block is reset.  Of what the command would have come to, `o`, nothing is
left but the first `seen` events already on the ports (log 12). -/
def hostAbandon (o : Outcome) (seen : Nat) (s : State) : Outcome :=
  hostReset { s with io := (trafficOf o).take seen }

/-- The block accepts the next action: the script goes on with the rest, and the ports carry nothing
yet. -/
def State.accept (s : State) (rest : List HostAction) : State := { s with pending := rest, io := [] }

/-- What the host sets up so that the next step is a DECODE of a run with these bytes: the bytes at the
cursor, a true end that covers them, a direct reader bound with no fault latched, and the DECODE on
the command port (log 16). -/
def placeRun (bs : List Byte) (s : State) : State :=
  let c := if s.cursor + bs.length < 2 ^ s.cfg.aw then s.cursor else 0
  { s with
    cursor := c, srcLen := max s.srcLen (c + bs.length), src := s.src.writeList c bs,
    status := { s.status with bound := true, mode := false, fault := false }, cause := .none,
    pending := .command 1 :: s.pending }

end Sys2Proof.Machine
end

