-- ==== Sys2Proof/Machine/Step.lean ====
section
/-! DEFINITION. One step of the machine: the block accepts the host's next action and carries it out to the end, or up to the reset that abandons it (41_reader_ops.md R150, 70_reset_and_hazards.md R220, R226). -/

namespace Sys2Proof.Machine

/-- One step.  With no action pending the block is idle and only its ports fall silent
(60_exceptions.md R205). -/
def step (s : State) : Host.Outcome State Fault Refusal :=
  match s.pending with
  | [] => .next (s.accept [])
  | .command code :: rest => exec (decodeCommand code) (s.accept rest)
  | .writeReg addr d :: rest => hostWrite addr d (s.accept rest)
  | .readReg addr :: rest => hostRead addr (s.accept rest)
  | .fill off bs :: rest => hostFill off bs (s.accept rest)
  | .rst :: rest => hostReset (s.accept rest)
  | .rstDuring code seen :: rest =>
    hostAbandon (exec (decodeCommand code) (s.accept rest)) seen (s.accept rest)

/-- The state in which the very next step runs the instruction whose bits, as spec/opcode_table.json
numbers them, are `w`: a command goes on the command port, a run under the cursor (log 16). -/
def State.withFetchWord (s : State) (nbits w : Nat) : State :=
  match tableLevel nbits w with
  | .command => { s with pending := .command (BitVec.ofNat 3 w) :: s.pending }
  | .stream => placeRun (tableBytes nbits w) s

end Sys2Proof.Machine
end

