-- ==== Sys2Proof/Machine/Reference.lean ====
section
/-! DEFINITION. Functions of the spec that are no hardware and that its laws are stated against: the byte-at-a-time decode (40_codec.md R131) and the reference encoder (30_encoding.md R110, R111). -/

namespace Sys2Proof.Machine

/-- The loop of `RefDecode` (40_codec.md R131), at byte `i` with the value gathered so far, over at
most `fuel` bytes more; `total` is the length of the whole list. -/
def refDecodeLoop (total : Nat) : Nat → Nat → Nat → List Byte → Decoded
  | fuel + 1, i, value, b :: bs =>
    let value' := value ||| ((b &&& 0x7F).toNat <<< (7 * i))
    if b &&& 0x80 != 0 then .ok value' (i + 1) else refDecodeLoop total fuel (i + 1) value' bs
  | _, _, _, _ => if MAX_LEN ≤ total then .malformed .overlong else .malformed .truncated

/-- `RefDecode(bs)` (40_codec.md R131). -/
def refDecode (bs : List Byte) : Decoded := refDecodeLoop bs.length MAX_LEN 0 0 bs

/-- `EncLen(v)` (30_encoding.md R110), not defined for `v >= 2^42`: no value there
(93_implementation_defined.md U1). -/
def encLen (v : Nat) : Option Nat :=
  if v < 2 ^ 7 then some 1 else if v < 2 ^ 14 then some 2 else if v < 2 ^ 21 then some 3
  else if v < 2 ^ 28 then some 4 else if v < 2 ^ 35 then some 5 else if v < 2 ^ 42 then some 6
  else none

/-- The bytes `b_0 .. b_{k-1}` of `Enc(v)` for a length `k` (30_encoding.md R110). -/
def encBytes (v k : Nat) : List Byte :=
  (List.range k).map fun i =>
    let p := BitVec.ofNat 8 ((v >>> (7 * i)) &&& 0x7F)
    if i + 1 = k then p ||| 0x80 else p

/-- `Enc(v)` (30_encoding.md R110): partial as `EncLen` is (93_implementation_defined.md U1). -/
def enc (v : Nat) : Option (List Byte) := (encLen v).map (encBytes v)

/-- `EncSeq([v_1 .. v_n])` (30_encoding.md R111), where every `Enc(v_i)` is defined. -/
def encSeq : List Nat → Option (List Byte)
  | [] => some [0x80]
  | v :: vs => (enc v).bind fun e => (encSeq vs).map fun es => e ++ es

end Sys2Proof.Machine
end

