-- ==== Sys2Proof/Machine/Script.lean ====
section
/-! DEFINITION. Host-side programs of the spec: a script from reset (30_encoding.md R108) and the pseudo-operations READ_SEQ and DECODE_AT (30_encoding.md R109). -/

namespace Sys2Proof.Machine

/-- The host presents one action next. -/
def State.present (s : State) (a : HostAction) : State := { s with pending := a :: s.pending }

/-- The code of DECODE on the command port (30_encoding.md R104). -/
def decodeCode : BitVec 3 := 1

/-- A program as 30_encoding.md R108 writes it: a source image and a list of host actions, from reset
(log 5). -/
def State.script (cfg : Config) (image : Memory) (actions : List HostAction) : State :=
  { State.resetWith cfg with src := image, pending := actions }

/-- `DECODE_AT n` (30_encoding.md R109). -/
def decodeAt (n : Nat) : List HostAction := [.writeReg 0 n, .command decodeCode]

/-- What `READ_SEQ` gives: the values it yields, how many DECODE commands it performed, and the state
after the last of them. -/
structure SeqRun where
  values : List Nat
  decodes : Nat
  last : State
  deriving DecidableEq, Repr

/-- `READ_SEQ` (30_encoding.md R109): DECODE until one completes with EOS = 1 or with a fault, yielding
the VALUE of every one that completed with EOS = 0.  `none`: it is not over after `fuel` commands. -/
def readSeq : Nat → State → Option SeqRun
  | 0, _ => none
  | fuel + 1, s =>
    match step (s.present (.command decodeCode)) with
    | .next t =>
      if t.status.eos || t.status.fault then some { values := [], decodes := 1, last := t }
      else (readSeq fuel t).map fun r =>
        { values := t.value.toNat :: r.values, decodes := r.decodes + 1, last := r.last }
    | .fault _ => none
    | .refused _ => none

end Sys2Proof.Machine
end

