-- ==== Sys2Proof/Safety.lean ====
section
/-! DEFINITION. What counts as a legal state and as a safe run, in the terms the statements use. -/

namespace Sys2Proof.Machine

/-- The AW-bit registers hold AW bits (10_state.md R21, R24, R34). -/
structure State.WidthsOk (s : State) : Prop where
  cursor : s.cursor < 2 ^ s.cfg.aw
  srcLen : s.srcLen < 2 ^ s.cfg.aw
  wbase : s.wbase < 2 ^ s.cfg.aw
  wend : s.wend < 2 ^ s.cfg.aw

/-- The registers hold only what their rules let them hold: VALUE below `2^42` (10_state.md R25), LEN at
most 6 (R26), FAULT set exactly when CAUSE is not NONE (R33), EOS only over a shown value of 0
(R30, R31), and a latched fault leaves its mark (60_exceptions.md R201). -/
structure State.RegistersOk (s : State) : Prop where
  value : s.value.toNat < 2 ^ 42
  len : s.len.toNat ≤ MAX_LEN
  cause : s.status.fault = true ↔ s.cause ≠ .none
  eos : s.status.eos = true → s.status.vvalid = true ∧ s.value = 0
  mark : s.status.fault = true → s.everFaulted = true

/-- Both memories keep their canonical form; the window lists no index at or above W and the source no
offset at or above `2^AW - 1` (20_memory.md R60). -/
structure State.MemoriesOk (s : State) : Prop where
  src : s.src.wf = true
  win : s.win.wf = true
  winRange : ∀ k, s.cfg.w ≤ k → s.win.read k = Memory.unlisted
  srcRange : ∀ o, 2 ^ s.cfg.aw - 1 ≤ o → s.src.read o = Memory.unlisted

/-- The window invariant of 10_state.md R35, without its premise. -/
structure State.WindowOk (s : State) : Prop where
  base_le_end : s.wbase ≤ s.wend
  end_le_len : s.wend ≤ s.srcLen
  size : s.wend - s.wbase ≤ s.cfg.w
  copy : ∀ k, k < s.wend - s.wbase → s.win.read k = s.src.read (s.wbase + k)

/-- The window invariant where it is claimed: bound, in buffered mode (10_state.md R35). -/
def State.WindowClaim (s : State) : Prop :=
  s.status.bound = true → s.status.mode = true → s.WindowOk

/-- A legal state: what reset establishes and every step keeps. -/
structure State.Legal (s : State) : Prop where
  widths : s.WidthsOk
  registers : s.RegistersOk
  memories : s.MemoriesOk
  window : s.WindowClaim

/-- The registers the host can read (10_state.md R38), STATUS as its five flags. -/
structure Visible where
  cursor : Nat
  srcLen : Nat
  value : BitVec 64
  len : BitVec 3
  status : Status
  cause : Cause
  deriving DecidableEq, Repr

/-- What the host can see of a state. -/
def State.visible (s : State) : Visible :=
  { cursor := s.cursor, srcLen := s.srcLen, value := s.value, len := s.len,
    status := s.status, cause := s.cause }

/-- The responses among the events of the ports. -/
def responses (io : List PortEvent) : List Response :=
  io.filterMap fun e => match e with
    | .response r => some r
    | .srcRequest _ _ | .prefetchHint _ | .readData _ => none

/-- The source read requests among the events of the ports, offset and count. -/
def requests (io : List PortEvent) : List (Nat × Nat) :=
  io.filterMap fun e => match e with
    | .srcRequest o n => some (o, n)
    | .response _ | .prefetchHint _ | .readData _ => none

/-- The window indexes of the prefetch pulses among the events of the ports. -/
def hints (io : List PortEvent) : List Nat :=
  io.filterMap fun e => match e with
    | .prefetchHint k => some k
    | .response _ | .srcRequest _ _ | .readData _ => none

/-- A data command may start: bound, and no fault latched (41_reader_ops.md R150, checks 3 and 5). -/
structure State.Ready (s : State) : Prop where
  bound : s.status.bound = true
  noFault : s.status.fault = false

/-- A command's outcome is a next state that keeps everything but the host-visible registers it names,
the window and the ports: the source stays, and the ports carry one response that mirrors the
registers (41_reader_ops.md R165). -/
def NextWith (s : State) (o : Outcome) (v : Visible) (ok : Bool) : Prop :=
  ∃ t, o = .next t ∧ t.visible = v ∧ t.src = s.src ∧
    responses t.io = responses s.io ++
      [{ ok := ok, cause := v.cause.code, value := v.value, len := v.len,
         eos := v.status.eos, vvalid := v.status.vvalid }]

/-- The registers after a DECODE that delivered a value (41_reader_ops.md R154). -/
def Visible.delivered (v : Visible) (value len : Nat) : Visible :=
  { v with
    value := BitVec.ofNat 64 value, len := BitVec.ofNat 3 len, cursor := v.cursor + len,
    status := { v.status with eos := value == 0, vvalid := true } }

/-- The registers after a SKIP past a run (41_reader_ops.md R155). -/
def Visible.skipped (v : Visible) (len : Nat) : Visible :=
  { v with
    len := BitVec.ofNat 3 len, cursor := v.cursor + len,
    status := { v.status with eos := false, vvalid := false } }

/-- The registers after a fault is latched (60_exceptions.md R199). -/
def Visible.faulted (v : Visible) (c : Cause) : Visible :=
  { v with status := { v.status with fault := true }, cause := c }

/-- The window a data command leaves: the one before it, or the one a refill loads, the latter exactly
in buffered mode when a refresh is needed (41_reader_ops.md R154 case e, R158). -/
def WindowAfterFetch (s : State) (o : Outcome) : Prop :=
  ∀ t, o = .next t → (t.wbase, t.wend, t.win) =
    if s.status.mode = true ∧ needRefresh s = true then
      ((refill s).wbase, (refill s).wend, (refill s).win)
    else (s.wbase, s.wend, s.win)

/-- The next action satisfies a condition. -/
def State.Accepts (s : State) (p : HostAction → Prop) : Prop :=
  ∃ a rest, s.pending = a :: rest ∧ p a

/-- The action is a command whose instruction is among these. -/
def HostAction.IsCommand (is : List Instr) : HostAction → Prop
  | .command c => decodeCommand c ∈ is
  | .writeReg _ _ | .readReg _ | .fill _ _ | .rst | .rstDuring _ _ => False

/-- The action is a write of the register at this address. -/
def HostAction.IsWrite (addr : BitVec 3) : HostAction → Prop
  | .writeReg a _ => a = addr
  | .command _ | .readReg _ | .fill _ _ | .rst | .rstDuring _ _ => False

/-- The action fills the source. -/
def HostAction.IsFill : HostAction → Prop
  | .fill _ _ => True
  | .command _ | .writeReg _ _ | .readReg _ | .rst | .rstDuring _ _ => False

/-- The action is `rst`, with or without a command in execution (70_reset_and_hazards.md R220). -/
def HostAction.IsReset : HostAction → Prop
  | .rst | .rstDuring _ _ => True
  | .command _ | .writeReg _ _ | .readReg _ | .fill _ _ => False

/-- The same action with every BIND a BIND.D (41_reader_ops.md R167). -/
def HostAction.asDirect : HostAction → HostAction
  | .command c => .command (if c = 7 then 3 else c)
  | .rstDuring c n => .rstDuring (if c = 7 then 3 else c) n
  | .writeReg a d => .writeReg a d
  | .readReg a => .readReg a
  | .fill o bs => .fill o bs
  | .rst => .rst

/-- The same action with every BIND a BIND.B (41_reader_ops.md R167). -/
def HostAction.asBuffered : HostAction → HostAction
  | .command c => .command (if c = 3 then 7 else c)
  | .rstDuring c n => .rstDuring (if c = 3 then 7 else c) n
  | .writeReg a d => .writeReg a d
  | .readReg a => .readReg a
  | .fill o bs => .fill o bs
  | .rst => .rst

/-- What the host can see, but for STATUS.MODE. -/
def Visible.butMode (v : Visible) : Visible := { v with status := { v.status with mode := false } }

/-- Two states the host cannot tell apart but by STATUS.MODE, with scripts that are the same but for the
form of each BIND (41_reader_ops.md R167). -/
structure Twins (s u : State) : Prop where
  cfg : s.cfg = u.cfg
  visible : s.visible.butMode = u.visible.butMode
  src : s.src = u.src
  mark : s.everFaulted = u.everFaulted
  script : s.pending.map HostAction.asDirect = u.pending.map HostAction.asDirect

/-- Two outcomes the host cannot tell apart but by STATUS.MODE: twin states with equal responses, or the
same stop. -/
def TwinOutcomes : Outcome → Outcome → Prop
  | .next t, .next u => Twins t u ∧ responses t.io = responses u.io
  | .fault a, .fault b => a = b
  | .refused a, .refused b => a = b
  | .next _, .fault _ | .next _, .refused _ | .fault _, .next _ | .fault _, .refused _
  | .refused _, .next _ | .refused _, .fault _ => False

/-- No fault is latched: the final state of a run is good (70_reset_and_hazards.md R228). -/
def State.Good (s : State) : Prop := s.status.fault = false

/-- A safe run of a number of steps: it stops nowhere and ends in a good state. -/
def Safe (n : Nat) (s : State) : Prop := ∃ t, Sys2Proof.core.run n s = .next t ∧ State.Good t

end Sys2Proof.Machine
end

