-- ==== Sys2Proof/Certificates/Slice0/Obligations.lean ====
section
/-! DEFINITION. The statements about the machine, each from the rules of the spec its docstring cites. -/

open Sys2Proof Sys2Proof.Machine

/-! ### Reset and steps -/

/-- 10_state.md R40: what reset leaves, for every choice of the parameters.  The window bytes are
unspecified there, so nothing is said of them. -/
def Obligations.ResetLeavesEveryRegisterZero : Prop :=
  ∀ cfg : Config, ∀ s : State, s = State.resetWith cfg →
    s.cursor = 0 ∧ s.srcLen = 0 ∧ s.value = 0 ∧ s.len = 0 ∧ s.status.toByte = 0x00 ∧
    s.cause = .none ∧ s.wbase = 0 ∧ s.wend = 0

/-- 70_reset_and_hazards.md R220: `rst` from any state, with or without a command in execution: the
source is not touched, and a command in execution is abandoned without a response.  (That the
parameters and the script stay, and how much of an abandoned command's port traffic has appeared, is
the model's choice, log 12; the history mark is the model's own, log 14.) -/
def Obligations.RstPutsEveryRegisterToItsResetValue : Prop :=
  ∀ (s : State) (a : HostAction) (rest : List HostAction), s.pending = a :: rest → a.IsReset →
    ∃ t, step s = .next t ∧ t.visible = (State.resetWith s.cfg).visible ∧
      t.wbase = 0 ∧ t.wend = 0 ∧ t.everFaulted = false ∧
      t.src = s.src ∧ t.cfg = s.cfg ∧ t.pending = rest ∧ responses t.io = [] ∧
      (a = .rst → t.io = []) ∧
      (∀ code seen u, a = .rstDuring code seen →
        exec (decodeCommand code) { s with pending := rest, io := [] } = .next u →
        t.io <+: u.io ∧ t.io.length = min seen (u.io.length - 1))

/-- A step runs the command on the port: what `exec` does with the decoded code, on the state whose
script has moved on and whose ports are silent (the script and the silent ports are the model's, logs 5
and 9); with an empty script the block idles. -/
def Obligations.StepRunsTheCommandOnThePort : Prop :=
  (∀ (s : State) (code : BitVec 3) (rest : List HostAction), s.pending = .command code :: rest →
    step s = exec (decodeCommand code) { s with pending := rest, io := [] } ∧
    decode .command [code.setWidth 8] = .ok (decodeCommand code, [])) ∧
  (∀ s : State, s.pending = [] → step s = .next { s with io := [] })

/-- A DECODE runs the run at the cursor: in either reader form, a DECODE step of a legal, ready state is
what `exec` does with the instruction the decoder reads from the source bytes at the cursor (log 6). -/
def Obligations.DecodeStepRunsTheRunAtTheCursor : Prop :=
  ∀ (s : State) (rest : List HostAction) (i : Instr) (bs : List Byte), s.Legal → s.Ready →
    s.pending = .command 0b001 :: rest → decode .stream s.bytesAhead = .ok (i, bs) →
    step s = exec i { s with pending := rest, io := [] }

/-- Words written out from the encodings decode to the instructions they stand for: the eight command
codes (30_encoding.md R104) and a few runs (30_encoding.md R93, R97, R100). -/
def Obligations.WrittenOutWordsDecodeAsTheSpecSays : Prop :=
  decodeTableWord 8 0xFF = some (.fui1 0x7F) ∧
  decodeTableWord 8 0x80 = some .sentinel ∧
  decodeTableWord 16 0x8148 = some (.fui2 0x48 0x01) ∧
  decodeTableWord 24 0xBD0440 = some (.fui3 0x40 0x04 0x3D) ∧
  decodeTableWord 40 0x921A154F09 = some (.fui5 0x09 0x4F 0x15 0x1A 0x12) ∧
  decodeTableWord 48 0x860504030201 = some (.fui6 1 2 3 4 5 6) ∧
  decodeTableWord 48 0x060504030201 = some (.malformed 1 2 3 4 5 6) ∧
  [0b000, 0b001, 0b010, 0b011, 0b111, 0b100, 0b101, 0b110].map decodeCommand =
    [.nop, .decode, .skip, .bindD, .bindB, .reserved100, .reserved101, .reserved110]

/-- Decoding an encoded well-formed instruction gives it back, whatever bytes follow. -/
def Obligations.DecodeOfEncodeGivesTheInstructionBack : Prop :=
  ∀ (i : Instr) (rest : List Byte), i.wf = true →
    decode i.level (encode i ++ rest) = .ok (i, rest)

/-- Decoding drops no bit: bytes that decode to an instruction are its encoding followed by the rest,
wherever the form's bytes are all there. -/
def Obligations.EncodeOfDecodeGivesTheBytesBack : Prop :=
  ∀ (l : Level) (bs rest : List Byte) (i : Instr), decode l bs = .ok (i, rest) →
    i.wf = true ∧ i.level = l ∧ (i.size ≤ bs.length → bs = encode i ++ rest)

/-- 30_encoding.md R95: the seven rows, that they are disjoint and together cover every word, that a row
selects exactly its form, and that bits outside a row's mask and value field are ignored by it. -/
def Obligations.RunFormsAreDisjointAndCoverEveryWord : Prop :=
  formRows.map (fun r => (r.len, r.mask, r.value)) =
    [(1, 0x80, 0x80), (2, 0x8080, 0x8000), (3, 0x808080, 0x800000), (4, 0x80808080, 0x80000000),
     (5, 0x8080808080, 0x8000000000), (6, 0x808080808080, 0x800000000000), (0, 0x808080808080, 0)] ∧
  (∀ w : Word, ∃! r, r ∈ formRows ∧ w &&& r.mask = r.value) ∧
  (∀ (w : Word) (avail : Nat) (r : FormRow), r ∈ formRows → w &&& r.mask = r.value →
    (r.len ≠ 0 → findTerm w avail = .ok r.len) ∧
    (r.len = 0 → ∃ sub, findTerm w avail = .malformed sub)) ∧
  (∀ (w w' : Word) (avail : Nat) (r : FormRow), r ∈ formRows → w &&& r.mask = r.value →
    w' &&& (r.mask ||| maskByTable r.len) = w &&& (r.mask ||| maskByTable r.len) →
    ∀ value len, decodeWord w avail = .ok value len ↔ decodeWord w' avail = .ok value len)

/-! ### The pure functions -/

/-- 00_scope.md R10: `ctz64`, `lowmask64` and `pext64` are what they are defined to be. -/
def Obligations.WordPrimitivesMeetTheirDefinitions : Prop :=
  (∀ (x : Word), (ctz64 x = none ↔ x = 0) ∧
    (∀ p, ctz64 x = some p →
      p < 64 ∧ x.getLsbD p = true ∧ (∀ i, i < p → x.getLsbD i = false) ∧
      ∃ m, lowmask64 x = some m ∧ ∀ i, i < 64 → m.getLsbD i = decide (i ≤ p))) ∧
  (∀ (x m : Word) (idx : List Nat), idx = (List.range 64).filter (fun i => m.getLsbD i) →
    pext64 x m < 2 ^ idx.length ∧
    ∀ j, j < idx.length → (pext64 x m).testBit j = x.getLsbD (idx.getD j 0))

/-- 20_memory.md R63: the little-endian assembly, zero above the list. -/
def Obligations.AssemblyIsLittleEndian : Prop :=
  ∀ bs : List Byte, bs.length ≤ 8 →
    (assemble8 bs).toNat = ∑ i ∈ Finset.range bs.length, (bs.getD i 0).toNat * 2 ^ (8 * i)

/-- 40_codec.md R122: where the lowest set high bit can stand and what each place gives; with no high
bit set, `avail` decides (40_codec.md R121). -/
def Obligations.TerminatorPositionGivesTheLength : Prop :=
  (∀ (w : Word) (avail p : Nat), ctz64 (highBits w) = some p →
    (p = 7 ∧ findTerm w avail = .ok 1) ∨ (p = 15 ∧ findTerm w avail = .ok 2) ∨
    (p = 23 ∧ findTerm w avail = .ok 3) ∨ (p = 31 ∧ findTerm w avail = .ok 4) ∨
    (p = 39 ∧ findTerm w avail = .ok 5) ∨ (p = 47 ∧ findTerm w avail = .ok 6) ∨
    (p = 55 ∧ findTerm w avail = .malformed .overlong) ∨
    (p = 63 ∧ findTerm w avail = .malformed .overlong)) ∧
  (∀ (w : Word) (avail : Nat), highBits w = 0 →
    findTerm w avail = .malformed (if 6 ≤ avail then .overlong else .truncated))

/-- 30_encoding.md R92, R96: a run has length `len` exactly when lane `len - 1` is the first with
T = 1 and `len` is at most 6. -/
def Obligations.RunEndsAtItsFirstTerminator : Prop :=
  ∀ (w : Word) (avail len : Nat), findTerm w avail = .ok len ↔
    1 ≤ len ∧ len ≤ 6 ∧ w.getLsbD (8 * (len - 1) + 7) = true ∧
    ∀ i, i < len - 1 → w.getLsbD (8 * i + 7) = false

/-- 40_codec.md R125: the two mask formulations agree. -/
def Obligations.MaskFormulationsAgree : Prop :=
  ∀ (w : Word) (avail len : Nat), findTerm w avail = .ok len →
    maskByLowest (highBits w) = some (maskByTable len)

/-- 40_codec.md R127: the closed form of the extraction. -/
def Obligations.ExtractionIsTheSumOfPayloadGroups : Prop :=
  ∀ (w : Word) (len : Nat), 1 ≤ len → len ≤ 6 →
    extract w len = ∑ i ∈ Finset.range len, (w.extractLsb' (8 * i) 7).toNat * 2 ^ (7 * i)

/-- 40_codec.md R132: the three decode strategies agree on every input, malformed ones included. -/
def Obligations.ThreeDecodeStrategiesAgree : Prop :=
  ∀ bs : List Byte, bs.length ≤ 8 →
    decodeWord (assemble8 bs) bs.length = refDecode bs ∧
    decodeWordByLowest (assemble8 bs) bs.length = refDecode bs

/-- 40_codec.md R133 (a), (d): a decoded value fits its length, and payloads that are all zero decode to
0. -/
def Obligations.DecodedValueFitsItsLength : Prop :=
  ∀ (w : Word) (avail value len : Nat), decodeWord w avail = .ok value len →
    1 ≤ len ∧ len ≤ 6 ∧ value < 2 ^ (7 * len) ∧ 2 ^ (7 * len) ≤ 2 ^ 42 ∧
    ((∀ i, i < len → w.extractLsb' (8 * i) 7 = 0) → value = 0)

/-- 40_codec.md R134: round trip with the reference encoder, over the extended range, on which alone it
is defined (30_encoding.md R110), and that the converse does not hold. -/
def Obligations.DecodeOfReferenceEncodingIsTheValue : Prop :=
  (∀ v, v < 2 ^ 42 ↔ ∃ e, enc v = some e) ∧
  (∀ (v : Nat) (e bs : List Byte), enc v = some e → bs.length ≤ 8 → e <+: bs →
    encLen v = some e.length ∧ decodeWord (assemble8 bs) bs.length = .ok v e.length) ∧
  (∃ (bs e : List Byte) (v len : Nat), bs.length ≤ 8 ∧
    decodeWord (assemble8 bs) bs.length = .ok v len ∧ enc v = some e ∧ ¬ e <+: bs)

/-- 40_codec.md R135: where it is defined, the reference length is monotone and takes the lengths 1 to 6,
on the contract range 1 to 5; it is defined below `2^42` only (30_encoding.md R110). -/
def Obligations.ReferenceLengthIsMonotone : Prop :=
  (∀ v, v < 2 ^ 42 ↔ ∃ n, encLen v = some n) ∧
  (∀ v v' n n', v ≤ v' → encLen v = some n → encLen v' = some n' → n ≤ n') ∧
  (∀ v n, encLen v = some n → 1 ≤ n ∧ n ≤ 6) ∧
  (∀ v n, v < 2 ^ 35 → encLen v = some n → n ≤ 5) ∧
  (∀ k, 1 ≤ k → k ≤ 5 → ∃ v, v < 2 ^ 35 ∧ encLen v = some k) ∧
  (∃ v, encLen v = some 6)

/-- 40_codec.md R136: a decode depends on the low lanes only. -/
def Obligations.DecodeDependsOnLowLanesOnly : Prop :=
  (∀ (w w' : Word) (avail : Nat),
    (∀ i, avail ≤ i → i < 8 → w.extractLsb' (8 * i) 8 = 0 ∧ w'.extractLsb' (8 * i) 8 = 0) →
    (∀ i, i < min avail 6 → w.extractLsb' (8 * i) 8 = w'.extractLsb' (8 * i) 8) →
    decodeWord w avail = decodeWord w' avail) ∧
  (∀ (w w' : Word) (avail avail' v len : Nat), decodeWord w avail = .ok v len →
    (∀ i, i < len → w.extractLsb' (8 * i) 8 = w'.extractLsb' (8 * i) 8) →
    decodeWord w' avail' = .ok v len)

/-- 30_encoding.md R94 (with R101, R102): every run of 1 to 6 bytes, canonical or not, whatever bytes
follow it, decodes to the sum of its payload groups. -/
def Obligations.EveryRunDecodesToTheSumOfItsGroups : Prop :=
  ∀ (ps : List Payload) (p : Payload) (rest : List Byte) (bs : List Byte),
    ps.length + 1 ≤ 6 → bs = ps.map contByte ++ [termByte p] ++ rest → bs.length ≤ 8 →
    ∃ v, decodeWord (assemble8 bs) bs.length = .ok v (ps.length + 1) ∧
      v = ∑ i ∈ Finset.range (ps.length + 1), ((ps ++ [p]).getD i 0).toNat * 2 ^ (7 * i) ∧
      v < 2 ^ (7 * (ps.length + 1))

/-! ### The commands -/

/-- 41_reader_ops.md R151: NOP changes nothing, in any state, and is never refused. -/
def Obligations.NopChangesNothing : Prop :=
  ∀ s : State, exec .nop s = .next { s with
    io := s.io ++ [.response { ok := true, cause := s.cause.code, value := s.value, len := s.len,
                               eos := s.status.eos, vvalid := s.status.vvalid }] }

/-- 41_reader_ops.md R152: BIND.D, in any state; a cursor at or past the true end is found by the next
DECODE. -/
def Obligations.BindDirectConstructsTheReader : Prop :=
  (∀ s : State, exec .bindD s = .next { s with
    status := { bound := true, mode := false, eos := false, vvalid := false, fault := false }
    cause := .none, value := 0, len := 0
    io := s.io ++ [.response { ok := true, cause := 0, value := 0, len := 0,
                               eos := false, vvalid := false }] }) ∧
  (∀ s t : State, s.srcLen ≤ s.cursor → exec .bindD s = .next t →
    ∃ u, exec .decode t = .next u ∧ u.status.fault = true ∧ u.cause = .truncated)

/-- 41_reader_ops.md R153: BIND.B, with the first window loaded and exactly the request of its refill. -/
def Obligations.BindBufferedConstructsTheReaderAndLoadsTheWindow : Prop :=
  ∀ s : State, s.win.wf = true → ∀ n, n = min s.cfg.w (s.srcLen - s.cursor) →
    ∃ t, exec .bindB s = .next t ∧
      t.visible = { s.visible with
        status := { bound := true, mode := true, eos := false, vvalid := false, fault := false }
        cause := .none, value := 0, len := 0 } ∧
      t.wbase = min s.cursor s.srcLen ∧ t.wend = min s.cursor s.srcLen + n ∧
      (∀ k, k < n → t.win.read k = s.src.read (s.cursor + k)) ∧
      (∀ k, n ≤ k → t.win.read k = s.win.read k) ∧
      t.io = s.io ++ (if s.cursor < s.srcLen then [.srcRequest s.cursor n] else []) ++
        [.response { ok := true, cause := 0, value := 0, len := 0, eos := false, vvalid := false }] ∧
      t.src = s.src ∧ t.cfg = s.cfg ∧ t.pending = s.pending ∧ t.everFaulted = s.everFaulted

/-- 41_reader_ops.md R154: DECODE in either reader form, for every legal state that is bound with no
fault latched; every register it does not write stays. -/
def Obligations.DecodeDeliversTheRunAtTheCursor : Prop :=
  ∀ s : State, s.Legal → s.Ready → ∀ d, d = decodeWord (assemble8 s.bytesAhead) s.bytesAhead.length →
    NextWith s (exec .decode s)
      (match d with
        | .ok value len => s.visible.delivered value len
        | .malformed sub => s.visible.faulted sub.cause)
      (match d with
        | .ok _ _ => true
        | .malformed _ => false) ∧
    WindowAfterFetch s (exec .decode s)

/-- 41_reader_ops.md R155: SKIP in either reader form, for every legal state that is bound with no
fault latched; VALUE and every register it does not write stay. -/
def Obligations.SkipAdvancesPastTheRunAtTheCursor : Prop :=
  ∀ s : State, s.Legal → s.Ready → ∀ d, d = skipWord (assemble8 s.bytesAhead) s.bytesAhead.length →
    NextWith s (exec .skip s)
      (match d with
        | .ok len => s.visible.skipped len
        | .malformed sub => s.visible.faulted sub.cause)
      (match d with
        | .ok _ => true
        | .malformed _ => false) ∧
    WindowAfterFetch s (exec .skip s)

/-- The whole-command form of 40_codec.md R130: from any state a SKIP leaves the cursor, the length, the
fault and the window that a DECODE would have left, and keeps VALUE. -/
def Obligations.SkipLeavesTheCursorDecodeWouldLeave : Prop :=
  ∀ s t u : State, exec .decode s = .next t → exec .skip s = .next u →
    u.cursor = t.cursor ∧ u.len = t.len ∧ u.cause = t.cause ∧ u.status.fault = t.status.fault ∧
    u.wbase = t.wbase ∧ u.wend = t.wend ∧ u.win = t.win ∧ requests u.io = requests t.io ∧
    u.value = s.value

/-- 41_reader_ops.md R164: a reserved code raises IllegalCommand where no fault is latched, bound or
not, and changes nothing else.  (The history mark is the model's own, log 14.) -/
def Obligations.ReservedCodesRaiseIllegalCommand : Prop :=
  ∀ (i : Instr) (s : State), i = .reserved100 ∨ i = .reserved101 ∨ i = .reserved110 →
    s.status.fault = false →
    exec i s = .next { s with
      status := { s.status with fault := true }, cause := .illegalCommand, everFaulted := true
      io := s.io ++ [.response { ok := false, cause := 4, value := s.value, len := s.len,
                                 eos := s.status.eos, vvalid := s.status.vvalid }] }

/-! ### The runs -/

/-- 30_encoding.md R94, R97 at the level of the machine: a DECODE that consumes the sentinel or a run of
one to three bytes delivers the sum of its groups, for every payload. -/
def Obligations.ShortRunsDeliverTheirValue : Prop :=
  ∀ (s : State) (p0 p1 p2 : Payload), s.Legal → s.Ready → ∀ n, n = s.srcLen - s.cursor →
    (1 ≤ n → NextWith s (exec .sentinel s) (s.visible.delivered 0 1) true) ∧
    (1 ≤ n → NextWith s (exec (.fui1 p0) s) (s.visible.delivered p0.toNat 1) true) ∧
    (2 ≤ n → NextWith s (exec (.fui2 p0 p1) s)
      (s.visible.delivered (p0.toNat + p1.toNat * 2 ^ 7) 2) true) ∧
    (3 ≤ n → NextWith s (exec (.fui3 p0 p1 p2) s)
      (s.visible.delivered (p0.toNat + p1.toNat * 2 ^ 7 + p2.toNat * 2 ^ 14) 3) true)

/-- 30_encoding.md R94, R99 at the level of the machine: a DECODE that consumes a run of four to six
bytes delivers the sum of its groups, all 42 bits of the longest form. -/
def Obligations.LongRunsDeliverTheirValue : Prop :=
  ∀ (s : State) (p0 p1 p2 p3 p4 p5 : Payload), s.Legal → s.Ready → ∀ n, n = s.srcLen - s.cursor →
    (4 ≤ n → NextWith s (exec (.fui4 p0 p1 p2 p3) s)
      (s.visible.delivered (p0.toNat + p1.toNat * 2 ^ 7 + p2.toNat * 2 ^ 14 + p3.toNat * 2 ^ 21) 4)
      true) ∧
    (5 ≤ n → NextWith s (exec (.fui5 p0 p1 p2 p3 p4) s)
      (s.visible.delivered (p0.toNat + p1.toNat * 2 ^ 7 + p2.toNat * 2 ^ 14 + p3.toNat * 2 ^ 21 +
        p4.toNat * 2 ^ 28) 5) true) ∧
    (6 ≤ n → NextWith s (exec (.fui6 p0 p1 p2 p3 p4 p5) s)
      (s.visible.delivered (p0.toNat + p1.toNat * 2 ^ 7 + p2.toNat * 2 ^ 14 + p3.toNat * 2 ^ 21 +
        p4.toNat * 2 ^ 28 + p5.toNat * 2 ^ 35) 6) true)

/-- 60_exceptions.md R191, R192: a DECODE that meets a malformed run raises the cause its available
bytes decide, and changes no other host-visible state. -/
def Obligations.MalformedRunRaisesTheCauseAvailDecides : Prop :=
  ∀ (s : State) (p0 p1 p2 p3 p4 p5 : Payload), s.Legal → s.Ready →
    NextWith s (exec (.malformed p0 p1 p2 p3 p4 p5) s)
      (s.visible.faulted (if 6 ≤ s.srcLen - s.cursor then .overlong else .truncated)) false

/-- A run with more bytes than the source has left is truncated (60_exceptions.md R192; DEDUCED, log
15: no fetch reads one). -/
def Obligations.RunPastTheTrueEndIsTruncated : Prop :=
  ∀ (s : State) (p0 p1 p2 p3 p4 p5 : Payload) (i : Instr), s.Legal → s.Ready →
    i = .sentinel ∨ i = .fui1 p0 ∨ i = .fui2 p0 p1 ∨ i = .fui3 p0 p1 p2 ∨ i = .fui4 p0 p1 p2 p3 ∨
      i = .fui5 p0 p1 p2 p3 p4 ∨ i = .fui6 p0 p1 p2 p3 p4 p5 →
    s.srcLen - s.cursor < i.size →
    NextWith s (exec i s) (s.visible.faulted .truncated) false

/-- A run is consumed with the fetch a DECODE does: it leaves the window and the traffic of the source
read port that a DECODE from the same state leaves (41_reader_ops.md R154, R158; log 6). -/
def Obligations.EveryRunFetchesAsDecodeDoes : Prop :=
  ∀ (i : Instr) (s t u : State), i.level = .stream → exec i s = .next t → exec .decode s = .next u →
    t.wbase = u.wbase ∧ t.wend = u.wend ∧ t.win = u.win ∧ requests t.io = requests u.io ∧
    hints t.io = hints u.io

/-! ### Fetch and window -/

/-- 41_reader_ops.md R156: the pair a fetch returns, in either form: available bytes in the low lanes,
zero above. -/
def Obligations.FetchReturnsTheBytesAtTheCursor : Prop :=
  ∀ s : State, s.Legal → s.status.bound = true →
    (fetch8 s).avail = min 8 (s.srcLen - s.cursor) ∧
    ∀ i, i < 8 → (fetch8 s).word.extractLsb' (8 * i) 8 =
      if i < (fetch8 s).avail then s.src.read (s.cursor + i) else 0

/-- 41_reader_ops.md R162: fetch transparency. -/
def Obligations.BufferedFetchEqualsDirectFetch : Prop :=
  ∀ s : State, s.status.bound = true → s.win.wf = true → s.WindowOk →
    (fetch8Buffered s).word = (fetch8Direct s).word ∧
    (fetch8Buffered s).avail = (fetch8Direct s).avail

/-- 41_reader_ops.md R159: the refresh test over the integers, and that without it all eight bytes are
in the window. -/
def Obligations.RefreshIsNeededOutsideTheWindow : Prop :=
  ∀ s : State,
    (needRefresh s = true ↔ s.cursor < s.wbase ∨ (s.wend : Int) - (s.cursor : Int) < 8) ∧
    (needRefresh s = false → s.wbase ≤ s.cursor ∧ s.cursor + 8 ≤ s.wend)

/-- 41_reader_ops.md R160: what a refill loads, inside BIND.B and inside a data command in buffered mode
that needs a refresh. -/
def Obligations.RefillCopiesTheChunkAtTheCursor : Prop :=
  ∀ (s t : State) (i : Instr), s.win.wf = true →
    i = .bindB ∨ ((i = .decode ∨ i = .skip) ∧ s.Ready ∧ s.status.mode = true ∧ needRefresh s = true) →
    exec i s = .next t → ∀ n, n = min s.cfg.w (s.srcLen - s.cursor) →
    (s.cursor < s.srcLen →
      t.wbase = s.cursor ∧ t.wend = s.cursor + n ∧ 1 ≤ n ∧ n ≤ s.cfg.w ∧ t.wend ≤ s.srcLen ∧
      (∀ k, k < n → t.win.read k = s.src.read (s.cursor + k)) ∧
      (∀ k, n ≤ k → t.win.read k = s.win.read k) ∧
      requests t.io = requests s.io ++ [(s.cursor, n)]) ∧
    (s.srcLen ≤ s.cursor →
      t.wbase = s.srcLen ∧ t.wend = s.srcLen ∧ t.win = s.win ∧ requests t.io = requests s.io)

/-- 20_memory.md R73: nothing but BIND.B, a refreshing data command in buffered mode (a run is consumed
by one) and reset changes the window. -/
def Obligations.OnlyARefillOrResetChangesTheWindow : Prop :=
  (∀ (s t : State) (i : Instr), exec i s = .next t →
    (t.wbase = s.wbase ∧ t.wend = s.wend ∧ t.win = s.win) ∨ i = .bindB ∨
    ((i = .decode ∨ i = .skip ∨ i.level = .stream) ∧ s.Ready ∧ s.status.mode = true ∧
      needRefresh s = true)) ∧
  (∀ s t : State, step s = .next t →
    (t.wbase = s.wbase ∧ t.wend = s.wend ∧ t.win = s.win) ∨
    s.Accepts (HostAction.IsCommand [.bindB, .decode, .skip]) ∨ s.Accepts HostAction.IsReset)

/-- 20_memory.md R65: the source read requests each command issues, and no others; and the prefetch
pulses of 41_reader_ops.md R161: one for every buffered fetch, with the index of the cursor in the
window it leaves, and no others.  (That a pulse is a port event with that index is the model's choice,
log 20.  The stream rows are `EveryRunFetchesAsDecodeDoes`.) -/
def Obligations.CommandsIssueExactlyTheirRequestsAndHints : Prop :=
  ∀ (s t : State) (i : Instr), i.level = .command → exec i s = .next t →
    hints t.io = hints s.io ++
      (if (i = .decode ∨ i = .skip) ∧ s.status.bound = true ∧ s.status.fault = false ∧
          s.status.mode = true then [s.cursor - t.wbase]
       else []) ∧
    requests t.io = requests s.io ++
      (if s.srcLen ≤ s.cursor then []
       else if i = .bindB then [(s.cursor, min s.cfg.w (s.srcLen - s.cursor))]
       else if (i = .decode ∨ i = .skip) ∧ s.status.bound = true ∧ s.status.fault = false then
         (if s.status.mode = false then [(s.cursor, min 8 (s.srcLen - s.cursor))]
          else if s.cursor < s.wbase ∨ s.wend < s.cursor + 8 then
            [(s.cursor, min s.cfg.w (s.srcLen - s.cursor))]
          else [])
       else [])

/-- 20_memory.md R62, R68: bytes at and past the true end are never read: changing them changes
nothing an instruction does. -/
def Obligations.BytesPastTheTrueEndAreNeverRead : Prop :=
  ∀ (i : Instr) (s t : State) (m : Memory), (∀ o, o < s.srcLen → m.read o = s.src.read o) →
    exec i s = .next t → exec i { s with src := m } = .next { t with src := m }

/-- 20_memory.md R66: no instruction writes the source; none changes SRC_LEN, the parameters or the
script either. -/
def Obligations.NoInstructionWritesTheSource : Prop :=
  ∀ (i : Instr) (s t : State), exec i s = .next t →
    t.src = s.src ∧ t.srcLen = s.srcLen ∧ t.cfg = s.cfg ∧ t.pending = s.pending

/-! ### Faults -/

/-- 60_exceptions.md R200: while a fault is latched, DECODE, SKIP and the reserved codes (and so every
run) are refused with no state change, and no register access clears the fault. -/
def Obligations.LatchedFaultRefusesCommands : Prop :=
  ∀ s : State, s.status.fault = true →
    (∀ i : Instr, i ≠ .nop → i ≠ .bindD → i ≠ .bindB →
      exec i s = .next { s with
        io := s.io ++ [.response { ok := false, cause := s.cause.code, value := s.value,
                                   len := s.len, eos := s.status.eos, vvalid := s.status.vvalid }] }) ∧
    (∀ (a : BitVec 3) (d : Nat) (t : State), hostWrite a d s = .next t ∨ hostRead a s = .next t →
      t.status.fault = true ∧ t.cause = s.cause)

/-- 60_exceptions.md R193: DECODE and SKIP (and so every run) raise NotBound while the reader is not
bound and no fault is latched, and issue no request.  (The history mark is the model's own, log 14.) -/
def Obligations.UnboundReaderRaisesNotBound : Prop :=
  ∀ (i : Instr) (s : State), i = .decode ∨ i = .skip ∨ i.level = .stream →
    s.status.bound = false → s.status.fault = false →
    exec i s = .next { s with
      status := { s.status with fault := true }, cause := .notBound, everFaulted := true
      io := s.io ++ [.response { ok := false, cause := 3, value := s.value, len := s.len,
                                 eos := s.status.eos, vvalid := s.status.vvalid }] }

/-- 60_exceptions.md R199: what taking a fault does, and that it is precise: of the host-visible state a
newly latched fault changes FAULT and CAUSE only, the response has `ok = 0` and mirrors the registers,
and the one hidden effect that survives is a Refill of the fetch. -/
def Obligations.FaultsArePrecise : Prop :=
  ∀ (i : Instr) (s t : State), exec i s = .next t → s.status.fault = false → t.status.fault = true →
    t.visible = s.visible.faulted t.cause ∧ t.cause ≠ .none ∧
    responses t.io = responses s.io ++
      [{ ok := false, cause := t.cause.code, value := s.value, len := s.len,
         eos := s.status.eos, vvalid := s.status.vvalid }] ∧
    (t.wbase, t.wend, t.win) =
      if (i = .decode ∨ i = .skip ∨ i.level = .stream) ∧ s.status.bound = true ∧
          s.status.mode = true ∧ needRefresh s = true then
        ((refill s).wbase, (refill s).wend, (refill s).win)
      else (s.wbase, s.wend, s.win)

/-- 60_exceptions.md R198: which cause a command leaves, in the order of the checks. -/
def Obligations.CausesFollowTheCheckOrder : Prop :=
  ∀ (i : Instr) (s t : State), i.level = .command → exec i s = .next t →
    (i = .nop → t.cause = s.cause ∧ t.status.fault = s.status.fault) ∧
    (i = .bindD ∨ i = .bindB → t.cause = .none ∧ t.status.fault = false) ∧
    (i ≠ .nop → i ≠ .bindD → i ≠ .bindB →
      (s.status.fault = true → t.cause = s.cause) ∧
      (s.status.fault = false → i ≠ .decode → i ≠ .skip → t.cause = .illegalCommand) ∧
      (s.status.fault = false → i = .decode ∨ i = .skip → s.status.bound = false →
        t.cause = .notBound) ∧
      (s.status.fault = false → i = .decode ∨ i = .skip → s.status.bound = true →
        (t.status.fault = false ∧ t.cause = s.cause) ∨ t.cause = .overlong ∨ t.cause = .truncated))

/-- 30_encoding.md R100: exactly two situations at the cursor are malformed, and what each raises. -/
def Obligations.MalformedExactlyWithoutATerminator : Prop :=
  ∀ (i : Instr) (s t : State), s.Legal → s.Ready → i = .decode ∨ i = .skip → exec i s = .next t →
    (t.cause = .overlong ↔ 6 ≤ s.srcLen - s.cursor ∧
      ∀ k, k < 6 → (s.src.read (s.cursor + k)).getLsbD 7 = false) ∧
    (t.cause = .truncated ↔ s.srcLen - s.cursor < 6 ∧
      ∀ k, k < s.srcLen - s.cursor → (s.src.read (s.cursor + k)).getLsbD 7 = false) ∧
    (t.status.fault = true ↔ t.cause = .overlong ∨ t.cause = .truncated)

/-- 60_exceptions.md R201: only BIND.D, BIND.B and reset clear a latched fault; a BIND leaves CURSOR
where it was; otherwise the first cause stays (10_state.md R33). -/
def Obligations.OnlyBindAndResetClearAFault : Prop :=
  ∀ s t : State, s.status.fault = true → step s = .next t →
    (t.status.fault = true ∧ t.cause = s.cause ∧ ¬ s.Accepts HostAction.IsReset ∧
      ¬ s.Accepts (HostAction.IsCommand [.bindD, .bindB])) ∨
    (t.status.fault = false ∧ t.cause = .none ∧ t.cursor = s.cursor ∧
      s.Accepts (HostAction.IsCommand [.bindD, .bindB])) ∨
    (t.status.fault = false ∧ t.cause = .none ∧ s.Accepts HostAction.IsReset)

/-- 41_reader_ops.md R165: every command (and every run) posts exactly one response, which mirrors the
registers after it; `ok` says that it raised nothing and was not refused. -/
def Obligations.EveryCommandPostsOneResponse : Prop :=
  ∀ (i : Instr) (s t : State), exec i s = .next t →
    ∃ ok, responses t.io = responses s.io ++
        [{ ok := ok, cause := t.cause.code, value := t.value, len := t.len,
           eos := t.status.eos, vvalid := t.status.vvalid }] ∧
      (ok = true ↔ i = .nop ∨ i = .bindD ∨ i = .bindB ∨ t.status.fault = false)

/-! ### The host -/

/-- 10_state.md R38, R27, R33: what a read of each address returns, and that a read changes no state. -/
def Obligations.RegisterReadsReturnTheTable : Prop :=
  ∀ (s : State) (addr : BitVec 3) (rest : List HostAction), s.pending = .readReg addr :: rest →
    step s = .next { s with
      pending := rest
      io := [.readData ([s.cursor, s.srcLen, s.value.toNat, s.len.toNat,
        s.status.bound.toNat + 2 * s.status.mode.toNat + 4 * s.status.eos.toNat +
          8 * s.status.vvalid.toNat + 16 * s.status.fault.toNat,
        (match s.cause with
          | .none => 0
          | .overlong => 1
          | .truncated => 2
          | .notBound => 3
          | .illegalCommand => 4),
        0, 0].getD addr.toNat 0)] }

/-- 10_state.md R39, R38: a CURSOR write changes CURSOR only, a SRC_LEN write also clears BOUND, a write
to any other address is ignored. -/
def Obligations.RegisterWritesChangeWhatTheTableSays : Prop :=
  ∀ (s : State) (addr : BitVec 3) (d : Nat) (rest : List HostAction),
    s.pending = .writeReg addr d :: rest →
    step s = .next (
      if addr = 0 then { s with pending := rest, io := [], cursor := d % 2 ^ s.cfg.aw }
      else if addr = 1 then
        { s with pending := rest, io := [], srcLen := d % 2 ^ s.cfg.aw
                 status := { s.status with bound := false } }
      else { s with pending := rest, io := [] })

/-- The host fills the source while the reader is not bound (70_reset_and_hazards.md R222 step 1;
60_exceptions.md R206): exactly the bytes named change.  (The fill action is the model's, log 10.) -/
def Obligations.FillWritesTheSourceWhileUnbound : Prop :=
  ∀ (s : State) (off : Nat) (bs : List Byte) (rest : List HostAction),
    s.pending = .fill off bs :: rest → s.src.wf = true → s.status.bound = false →
    off + bs.length ≤ 2 ^ s.cfg.aw - 1 →
    ∃ m, step s = .next { s with pending := rest, io := [], src := m } ∧ m.wf = true ∧
      ∀ o, m.read o = if off ≤ o ∧ o < off + bs.length then bs.getD (o - off) 0 else s.src.read o

/-- 20_memory.md R71 as 93 U6 has a model treat it: a change of the bound source is refused.  (The
refusal is the model's, log 10.) -/
def Obligations.ChangeOfABoundSourceIsRefused : Prop :=
  ∀ (s : State) (off k : Nat) (bs : List Byte) (rest : List HostAction),
    s.pending = .fill off bs :: rest → s.status.bound = true →
    off + bs.length ≤ 2 ^ s.cfg.aw - 1 → k < bs.length → off + k < s.srcLen →
    bs.getD k 0 ≠ s.src.read (off + k) →
    step s = .refused .sourceChangedWhileBound

/-! ### Rules over every step -/

/-- 10_state.md R22: how each operation changes CURSOR. -/
def Obligations.CursorMovesAsTheTableSays : Prop :=
  ∀ s t : State, step s = .next t →
    match s.pending with
    | [] => t.cursor = s.cursor
    | .command c :: _ =>
      if decodeCommand c = .decode ∨ decodeCommand c = .skip then
        (t.status.fault = false →
          t.cursor = s.cursor + t.len.toNat ∧ 1 ≤ t.len.toNat ∧ t.len.toNat ≤ 6) ∧
        (t.status.fault = true → t.cursor = s.cursor)
      else t.cursor = s.cursor
    | .writeReg addr d :: _ => t.cursor = if addr = 0 then d % 2 ^ s.cfg.aw else s.cursor
    | .readReg _ :: _ => t.cursor = s.cursor
    | .fill _ _ :: _ => t.cursor = s.cursor
    | .rst :: _ => t.cursor = 0
    | .rstDuring _ _ :: _ => t.cursor = 0

/-- 10_state.md R23: a DECODE or SKIP that succeeds stays at or below the true end, so the cursor never
wraps. -/
def Obligations.SuccessNeverPassesTheTrueEnd : Prop :=
  ∀ (i : Instr) (s t : State), s.Legal → i = .decode ∨ i = .skip → exec i s = .next t →
    t.status.fault = false →
    t.len.toNat ≤ (fetch8 s).avail ∧ (fetch8 s).avail ≤ s.srcLen - s.cursor ∧
    t.cursor = s.cursor + t.len.toNat ∧ t.cursor ≤ s.srcLen ∧ s.srcLen ≤ 2 ^ s.cfg.aw - 1

/-- 10_state.md R20, the column "written by": what may change each register; and the history mark of
60_exceptions.md R201, which a new fault sets and reset alone clears (the mark is the model's own, log
14). -/
def Obligations.RegistersChangeOnlyByTheirWriters : Prop :=
  ∀ s t : State, step s = .next t →
    (t.cursor ≠ s.cursor → s.Accepts (HostAction.IsWrite 0) ∨
      s.Accepts (HostAction.IsCommand [.decode, .skip]) ∨ s.Accepts HostAction.IsReset) ∧
    (t.srcLen ≠ s.srcLen → s.Accepts (HostAction.IsWrite 1) ∨ s.Accepts HostAction.IsReset) ∧
    (t.value ≠ s.value → s.Accepts (HostAction.IsCommand [.decode, .bindD, .bindB]) ∨
      s.Accepts HostAction.IsReset) ∧
    (t.len ≠ s.len → s.Accepts (HostAction.IsCommand [.decode, .skip, .bindD, .bindB]) ∨
      s.Accepts HostAction.IsReset) ∧
    (t.status.bound ≠ s.status.bound → s.Accepts (HostAction.IsCommand [.bindD, .bindB]) ∨
      s.Accepts (HostAction.IsWrite 1) ∨ s.Accepts HostAction.IsReset) ∧
    (t.status.mode ≠ s.status.mode → s.Accepts (HostAction.IsCommand [.bindD, .bindB]) ∨
      s.Accepts HostAction.IsReset) ∧
    (t.status.eos ≠ s.status.eos ∨ t.status.vvalid ≠ s.status.vvalid →
      s.Accepts (HostAction.IsCommand [.decode, .skip, .bindD, .bindB]) ∨ s.Accepts HostAction.IsReset) ∧
    (t.cause ≠ s.cause ∨ t.status.fault ≠ s.status.fault →
      s.Accepts (HostAction.IsCommand
        [.decode, .skip, .bindD, .bindB, .reserved100, .reserved101, .reserved110]) ∨
      s.Accepts HostAction.IsReset) ∧
    (t.src ≠ s.src → s.Accepts HostAction.IsFill) ∧ t.cfg = s.cfg ∧
    (t.status.fault = true → s.status.fault = true ∨ t.everFaulted = true) ∧
    (s.everFaulted = true → t.everFaulted = true ∨ s.Accepts HostAction.IsReset)

/-- Reset is a legal state, for every choice of the parameters. -/
def Obligations.ResetStateIsLegal : Prop :=
  ∀ cfg : Config, (State.resetWith cfg).Legal

/-- The headline invariant: every step keeps a legal state legal: widths (10_state.md R21 to R24), what
the registers may hold (R25, R26, R30 to R33), the canonical form of both memories, and the window
invariant of R35 (41_reader_ops.md R168). -/
def Obligations.EveryStepKeepsALegalState : Prop :=
  ∀ s t : State, s.Legal → step s = .next t → t.Legal

/-- The step form of 41_reader_ops.md R167: the reader's form is invisible: from any two legal states the
host cannot tell apart but by MODE, whatever their windows, one step of scripts that differ only in the
form of BIND leaves two such states and the same responses.  (That both stop alike at a fill that the
spec gives no meaning is the model's choice, logs 10 and 11; the history mark that they share is the
model's own, log 14.) -/
def Obligations.ReaderFormIsInvisibleToEveryStep : Prop :=
  ∀ s u : State, s.Legal → u.Legal → Twins s u → TwinOutcomes (step s) (step u)

/-- 41_reader_ops.md R167: buffered and direct readers are indistinguishable, for any source, any
parameters and any script, after every action: the runs of the steps of
`ReaderFormIsInvisibleToEveryStep`.  (That both runs stop alike at a fill that the spec gives no meaning
is the model's choice, logs 10 and 11; the history mark that they share is the model's own, log 14.) -/
def Obligations.BufferedAndDirectRunsAreIndistinguishable : Prop :=
  ∀ (cfg : Config) (image : Memory) (script : List HostAction) (n : Nat), image.wf = true →
    (∀ o, 2 ^ cfg.aw - 1 ≤ o → image.read o = Memory.unlisted) →
    TwinOutcomes
      (Sys2Proof.core.run n (State.script cfg image (script.map HostAction.asDirect)))
      (Sys2Proof.core.run n (State.script cfg image (script.map HostAction.asBuffered)))

/-- 41_reader_ops.md R166: sequence round trip: READ_SEQ over the reference encoding of a list yields the
list, with one DECODE more than it has elements, and ends just past the sentinel. -/
def Obligations.ReadSeqYieldsTheEncodedSequence : Prop :=
  ∀ (s : State) (vs : List Nat), s.Legal → s.Ready → (∀ v, v ∈ vs → 1 ≤ v ∧ v < 2 ^ 42) →
    ∃ (e : List Byte) (lens : List Nat), encSeq vs = some e ∧ vs.map encLen = lens.map some ∧
      (s.cursor + e.length ≤ s.srcLen → s.src.readList s.cursor e.length = e →
        readSeq vs.length s = none ∧
        ∃ r, readSeq (vs.length + 1) s = some r ∧ r.values = vs ∧ r.decodes = vs.length + 1 ∧
          r.last.status.eos = true ∧ r.last.status.fault = false ∧
          r.last.cursor = s.cursor + lens.sum + 1)

/-- 70_reset_and_hazards.md R228: READ_SEQ is over after at most `SRC_LEN - c + 1` DECODE commands. -/
def Obligations.ReadSeqIsOverBeforeTheSourceIs : Prop :=
  ∀ s : State, s.Legal → s.Ready → s.cursor ≤ s.srcLen →
    ∃ r, readSeq (s.srcLen - s.cursor + 1) s = some r ∧ r.decodes ≤ s.srcLen - s.cursor + 1 ∧
      (r.last.status.eos = true ∨ r.last.status.fault = true)
end

