-- ==== Sys2Proof/Laws/Codec.lean ====
section
/-! SUPPORT. The bits of the word primitives and of the packed steps: one spec lemma per function. -/

namespace Sys2Proof

/-- Bit `j` of an assembled word is bit `j % 8` of byte `j / 8`, zero past the list. -/
theorem getLsbD_assemble8 (bs : List Byte) (j : Nat) :
    (assemble8 bs).getLsbD j = (decide (j < 64) && (bs.getD (j / 8) 0).getLsbD (j % 8)) := by
  induction bs generalizing j with
  | nil => simp [assemble8]
  | cons b bs ih =>
    rw [assemble8, BitVec.getLsbD_or, BitVec.getLsbD_shiftLeft, BitVec.getLsbD_setWidth, ih]
    by_cases h8 : j < 8
    · simp [h8, Nat.div_eq_of_lt h8, Nat.mod_eq_of_lt h8]
    · have hd : j / 8 = (j - 8) / 8 + 1 := by omega
      have hm : j % 8 = (j - 8) % 8 := by omega
      have hb : b.getLsbD j = false := BitVec.getLsbD_of_ge b j (by omega)
      rw [hd, hm, List.getD_cons_succ, hb]
      by_cases h64 : j < 64
      · simp [h64, h8, show j - 8 < 64 by omega]
      · simp [h64]

/-- Bit `j` of a payload group. -/
theorem getLsbD_group (w : Word) (i j : Nat) :
    (group w i).getLsbD j = (decide (j < 7) && w.getLsbD (8 * i + j)) := by
  simp [group, BitVec.getLsbD_extractLsb']

end Sys2Proof

namespace Sys2Proof.Machine

/-- `ctz64` finds the lowest set bit. -/
theorem ctz64_eq_some_iff (x : Word) (p : Nat) :
    ctz64 x = some p ↔ p < 64 ∧ x.getLsbD p = true ∧ ∀ i, i < p → x.getLsbD i = false := by
  rw [ctz64, List.find?_range_eq_some]
  constructor
  · rintro ⟨hp, hm, hlt⟩
    exact ⟨List.mem_range.1 hm, hp, fun i hi => by simpa using hlt i hi⟩
  · rintro ⟨hm, hp, hlt⟩
    exact ⟨hp, List.mem_range.2 hm, fun i hi => by simpa using hlt i hi⟩

/-- `ctz64` finds nothing exactly in the zero word. -/
theorem ctz64_eq_none_iff (x : Word) : ctz64 x = none ↔ x = 0 := by
  rw [ctz64, List.find?_eq_none]
  constructor
  · intro h
    ext i hi
    simpa [BitVec.getLsbD_eq_getElem hi] using h i (List.mem_range.2 hi)
  · rintro rfl i _
    simp

/-- Bit `j` of HIGHBITS is set exactly at bit 7 of a lane. -/
theorem getLsbD_HIGHBITS {j : Nat} (hj : j < 64) : HIGHBITS.getLsbD j = decide (j % 8 = 7) := by
  have : ∀ j : Fin 64, HIGHBITS.getLsbD j = decide ((j : Nat) % 8 = 7) := by decide
  exact this ⟨j, hj⟩

/-- `HighBits` acts on each lane alone. -/
theorem getLsbD_highBits (w : Word) (j : Nat) :
    (highBits w).getLsbD j = (decide (j % 8 = 7) && w.getLsbD j) := by
  rw [highBits, BitVec.getLsbD_and]
  by_cases hj : j < 64
  · rw [getLsbD_HIGHBITS hj, Bool.and_comm]
  · rw [BitVec.getLsbD_of_ge w j (by omega)]; simp

/-- Bit `j` of a word of low bits. -/
theorem getLsbD_lowBits {p j : Nat} (hj : j < 64) :
    (lowBits p).getLsbD j = decide (j ≤ p) := by
  rw [lowBits, BitVec.getLsbD_ofNat, Nat.testBit_two_pow_sub_one]
  simp [hj]

/-- The six lines of the reference length, and no other. -/
theorem encLen_eq_some_iff (v n : Nat) : encLen v = some n ↔
    (n = 1 ∧ v < 2 ^ 7) ∨ (n = 2 ∧ 2 ^ 7 ≤ v ∧ v < 2 ^ 14) ∨ (n = 3 ∧ 2 ^ 14 ≤ v ∧ v < 2 ^ 21) ∨
    (n = 4 ∧ 2 ^ 21 ≤ v ∧ v < 2 ^ 28) ∨ (n = 5 ∧ 2 ^ 28 ≤ v ∧ v < 2 ^ 35) ∨
    (n = 6 ∧ 2 ^ 35 ≤ v ∧ v < 2 ^ 42) := by
  unfold encLen
  split_ifs <;> simp only [Option.some.injEq, false_iff] <;> omega

@[simp] theorem encBytes_length (v k : Nat) : (encBytes v k).length = k := by simp [encBytes]

/-- The bytes of a defined reference encoding. -/
theorem enc_eq_some_iff (v : Nat) (e : List Byte) :
    enc v = some e ↔ encLen v = some e.length ∧ e = encBytes v e.length := by
  rw [enc, Option.map_eq_some_iff]
  constructor
  · rintro ⟨k, hk, rfl⟩
    rw [encBytes_length]
    exact ⟨hk, rfl⟩
  · rintro ⟨hk, he⟩
    exact ⟨_, hk, he.symm⟩

/-- A terminator search answers a length of 1 to 6. -/
theorem findTerm_ok_range {w : Word} {avail len : Nat} (h : findTerm w avail = .ok len) :
    1 ≤ len ∧ len ≤ MAX_LEN := by
  unfold findTerm at h
  split at h
  · split at h
    · next hp => cases h; exact ⟨by omega, hp⟩
    · cases h
  · split at h <;> cases h

/-- A decode that answers is a terminator search that answers, with the extracted value. -/
theorem decodeWord_eq_ok_iff (w : Word) (avail value len : Nat) :
    decodeWord w avail = .ok value len ↔ findTerm w avail = .ok len ∧ value = extract w len := by
  unfold decodeWord
  split
  · next l h => simp only [h, Decoded.ok.injEq, Found.ok.injEq]; constructor <;> (rintro ⟨rfl, rfl⟩; simp)
  · next h => simp [h]

/-- A decode is malformed exactly as its terminator search is. -/
theorem decodeWord_eq_malformed_iff (w : Word) (avail : Nat) (sub : Malformed) :
    decodeWord w avail = .malformed sub ↔ findTerm w avail = .malformed sub := by
  unfold decodeWord
  split <;> simp_all

end Sys2Proof.Machine
end

