-- ==== Sys2Proof/Laws/Memory.lean ====
section
/-! SUPPORT. The laws of memory: a read after a write, everything else unchanged, the canonical form kept, equal reads mean equal data. -/

namespace Sys2Proof.Machine.Memory

theorem wfFrom_cons (lo a : Nat) (v : Byte) (m : Memory) :
    wfFrom lo ((a, v) :: m) = true ↔ lo ≤ a ∧ v ≠ unlisted ∧ wfFrom (a + 1) m = true := by
  simp [wfFrom, and_assoc]

theorem wfFrom_mono {lo lo' : Nat} {m : Memory} (h : lo' ≤ lo) (hm : wfFrom lo m = true) :
    wfFrom lo' m = true := by
  cases m with
  | nil => rfl
  | cons c m =>
    obtain ⟨a, v⟩ := c
    rw [wfFrom_cons] at hm ⊢
    exact ⟨by omega, hm.2⟩

/-- Below the bound of the canonical form nothing is listed. -/
theorem read_below {lo : Nat} {m : Memory} (hm : wfFrom lo m = true) {a : Nat} (h : a < lo) :
    read m a = unlisted := by
  induction m generalizing lo with
  | nil => rfl
  | cons c m ih =>
    obtain ⟨b, u⟩ := c
    rw [wfFrom_cons] at hm
    rw [read, if_neg (by omega)]
    exact ih hm.2.2 (by omega)

theorem read_write_same {lo : Nat} {m : Memory} (hm : wfFrom lo m = true) (a : Nat) (v : Byte) :
    read (write m a v) a = v := by
  induction m generalizing lo with
  | nil => by_cases hv : v = unlisted <;> simp [write, read, hv]
  | cons c m ih =>
    obtain ⟨b, u⟩ := c
    rw [wfFrom_cons] at hm
    rw [write]
    split
    · split
      · next hv => rw [hv, read, if_neg (by omega)]; exact read_below hm.2.2 (by omega)
      · simp [read]
    · split
      · next h =>
        split
        · next hv => rw [hv]; exact read_below hm.2.2 (by omega)
        · simp [read]
      · next h => rw [read, if_neg h]; exact ih hm.2.2

theorem read_write_other (m : Memory) {a b : Nat} (v : Byte) (h : a ≠ b) :
    read (write m b v) a = read m a := by
  induction m with
  | nil => by_cases hv : v = unlisted <;> simp [write, read, hv, h]
  | cons c m ih =>
    obtain ⟨x, u⟩ := c
    rw [write]
    split
    · split
      · rfl
      · simp [read, h]
    · split
      · next hx => subst hx; split <;> simp [read, h]
      · rw [read, read, ih]

theorem wfFrom_write {lo : Nat} {m : Memory} (hm : wfFrom lo m = true) {a : Nat} (ha : lo ≤ a)
    (v : Byte) : wfFrom lo (write m a v) = true := by
  induction m generalizing lo with
  | nil =>
    rw [write]
    split
    · rfl
    · next hv => exact (wfFrom_cons ..).2 ⟨ha, hv, rfl⟩
  | cons c m ih =>
    obtain ⟨b, u⟩ := c
    have hm' := (wfFrom_cons ..).1 hm
    rw [write]
    split
    · next hab =>
      split
      · exact hm
      · next hv => exact (wfFrom_cons ..).2 ⟨ha, hv, (wfFrom_cons ..).2 ⟨by omega, hm'.2⟩⟩
    · split
      · next hab =>
        subst hab
        split
        · exact wfFrom_mono (by omega) hm'.2.2
        · next hv => exact (wfFrom_cons ..).2 ⟨ha, hv, hm'.2.2⟩
      · exact (wfFrom_cons ..).2 ⟨hm'.1, hm'.2.1, ih hm'.2.2 (by omega)⟩

/-- A write keeps the canonical form. -/
theorem wf_write {m : Memory} (hm : m.wf = true) (a : Nat) (v : Byte) : (m.write a v).wf = true :=
  wfFrom_write hm (Nat.zero_le a) v

/-- A write of several bytes keeps the canonical form. -/
theorem wf_writeList {m : Memory} (hm : m.wf = true) (a : Nat) (vs : List Byte) :
    (m.writeList a vs).wf = true := by
  induction vs generalizing m a with
  | nil => exact hm
  | cons v vs ih => exact ih (wf_write hm a v) (a + 1)

theorem read_writeList_other (m : Memory) (a : Nat) (vs : List Byte) {b : Nat}
    (h : b < a ∨ a + vs.length ≤ b) : read (m.writeList a vs) b = read m b := by
  induction vs generalizing m a with
  | nil => rfl
  | cons v vs ih =>
    rw [List.length_cons] at h
    rw [writeList, ih _ _ (by omega), read_write_other _ _ (by omega)]

theorem read_writeList_at {m : Memory} (hm : m.wf = true) (a : Nat) (vs : List Byte) {i : Nat}
    (h : i < vs.length) : read (m.writeList a vs) (a + i) = vs.getD i 0 := by
  induction vs generalizing m a i with
  | nil => simp at h
  | cons v vs ih =>
    rw [writeList]
    cases i with
    | zero => rw [read_writeList_other _ _ _ (by omega)]; simpa using read_write_same hm a v
    | succ i =>
      have := ih (wf_write hm a v) (a + 1) (i := i) (by simpa using h)
      rw [show a + (i + 1) = a + 1 + i by omega, this]; simp

/-- Equal reads mean equal data. -/
theorem ext_from {lo : Nat} {m n : Memory} (hm : wfFrom lo m = true) (hn : wfFrom lo n = true)
    (h : ∀ a, read m a = read n a) : m = n := by
  induction m generalizing lo n with
  | nil =>
    cases n with
    | nil => rfl
    | cons c n =>
      obtain ⟨b, u⟩ := c
      have := h b
      simp only [read, if_true] at this
      exact absurd this.symm ((wfFrom_cons ..).1 hn).2.1
  | cons c m ih =>
    obtain ⟨a, v⟩ := c
    rw [wfFrom_cons] at hm
    cases n with
    | nil =>
      have := h a
      simp only [read, if_true] at this
      exact absurd this hm.2.1
    | cons d n =>
      obtain ⟨b, u⟩ := d
      rw [wfFrom_cons] at hn
      have hab : a = b := by
        rcases Nat.lt_trichotomy a b with hlt | he | hgt
        · have := h a
          rw [read, if_pos rfl, read, if_neg (by omega), read_below hn.2.2 (by omega)] at this
          exact absurd this hm.2.1
        · exact he
        · have := h b
          rw [read, if_neg (by omega), read, if_pos rfl, read_below hm.2.2 (by omega)] at this
          exact absurd this.symm hn.2.1
      subst hab
      have huv : v = u := by simpa [read] using h a
      subst huv
      rw [ih hm.2.2 hn.2.2 fun x => ?_]
      by_cases hx : x = a
      · subst hx; rw [read_below hm.2.2 (by omega), read_below hn.2.2 (by omega)]
      · simpa [read, hx] using h x

/-- Two memories in canonical form that read alike are equal. -/
theorem ext_read {m n : Memory} (hm : m.wf = true) (hn : n.wf = true)
    (h : ∀ a, m.read a = n.read a) : m = n := ext_from hm hn h

@[simp] theorem length_readList (m : Memory) (a n : Nat) : (m.readList a n).length = n := by
  simp [readList]

theorem getD_readList (m : Memory) (a : Nat) {i n : Nat} (h : i < n) :
    (m.readList a n).getD i 0 = m.read (a + i) := by
  simp [readList, h]

theorem readList_congr {m m' : Memory} {a a' n : Nat}
    (h : ∀ i, i < n → m.read (a + i) = m'.read (a' + i)) : m.readList a n = m'.readList a' n :=
  List.map_congr_left fun i hi => h i (List.mem_range.1 hi)

end Sys2Proof.Machine.Memory
end

