-- ==== Sys2Proof/Laws/State.lean ====
section
/-! SUPPORT. One lemma per field per update of the state, so that no later proof unfolds a record update. -/

namespace Sys2Proof.Machine

@[simp] theorem State_emit_cfg (s : State) (e : PortEvent) : (s.emit e).cfg = s.cfg := rfl
@[simp] theorem State_emit_cursor (s : State) (e : PortEvent) : (s.emit e).cursor = s.cursor := rfl
@[simp] theorem State_emit_srcLen (s : State) (e : PortEvent) : (s.emit e).srcLen = s.srcLen := rfl
@[simp] theorem State_emit_value (s : State) (e : PortEvent) : (s.emit e).value = s.value := rfl
@[simp] theorem State_emit_len (s : State) (e : PortEvent) : (s.emit e).len = s.len := rfl
@[simp] theorem State_emit_status (s : State) (e : PortEvent) : (s.emit e).status = s.status := rfl
@[simp] theorem State_emit_cause (s : State) (e : PortEvent) : (s.emit e).cause = s.cause := rfl
@[simp] theorem State_emit_wbase (s : State) (e : PortEvent) : (s.emit e).wbase = s.wbase := rfl
@[simp] theorem State_emit_wend (s : State) (e : PortEvent) : (s.emit e).wend = s.wend := rfl
@[simp] theorem State_emit_win (s : State) (e : PortEvent) : (s.emit e).win = s.win := rfl
@[simp] theorem State_emit_src (s : State) (e : PortEvent) : (s.emit e).src = s.src := rfl
@[simp] theorem State_emit_everFaulted (s : State) (e : PortEvent) : (s.emit e).everFaulted = s.everFaulted := rfl
@[simp] theorem State_emit_io (s : State) (e : PortEvent) : (s.emit e).io = s.io ++ [e] := rfl
@[simp] theorem State_emit_pending (s : State) (e : PortEvent) : (s.emit e).pending = s.pending := rfl

@[simp] theorem respond_cfg (ok : Bool) (s : State) : (respond ok s).cfg = s.cfg := rfl
@[simp] theorem respond_cursor (ok : Bool) (s : State) : (respond ok s).cursor = s.cursor := rfl
@[simp] theorem respond_srcLen (ok : Bool) (s : State) : (respond ok s).srcLen = s.srcLen := rfl
@[simp] theorem respond_value (ok : Bool) (s : State) : (respond ok s).value = s.value := rfl
@[simp] theorem respond_len (ok : Bool) (s : State) : (respond ok s).len = s.len := rfl
@[simp] theorem respond_status (ok : Bool) (s : State) : (respond ok s).status = s.status := rfl
@[simp] theorem respond_cause (ok : Bool) (s : State) : (respond ok s).cause = s.cause := rfl
@[simp] theorem respond_wbase (ok : Bool) (s : State) : (respond ok s).wbase = s.wbase := rfl
@[simp] theorem respond_wend (ok : Bool) (s : State) : (respond ok s).wend = s.wend := rfl
@[simp] theorem respond_win (ok : Bool) (s : State) : (respond ok s).win = s.win := rfl
@[simp] theorem respond_src (ok : Bool) (s : State) : (respond ok s).src = s.src := rfl
@[simp] theorem respond_everFaulted (ok : Bool) (s : State) : (respond ok s).everFaulted = s.everFaulted := rfl
@[simp] theorem respond_io (ok : Bool) (s : State) : (respond ok s).io = s.io ++ [.response (s.responseWith ok)] := rfl
@[simp] theorem respond_pending (ok : Bool) (s : State) : (respond ok s).pending = s.pending := rfl

@[simp] theorem refuse_cfg (s : State) : (refuse s).cfg = s.cfg := rfl
@[simp] theorem refuse_cursor (s : State) : (refuse s).cursor = s.cursor := rfl
@[simp] theorem refuse_srcLen (s : State) : (refuse s).srcLen = s.srcLen := rfl
@[simp] theorem refuse_value (s : State) : (refuse s).value = s.value := rfl
@[simp] theorem refuse_len (s : State) : (refuse s).len = s.len := rfl
@[simp] theorem refuse_status (s : State) : (refuse s).status = s.status := rfl
@[simp] theorem refuse_cause (s : State) : (refuse s).cause = s.cause := rfl
@[simp] theorem refuse_wbase (s : State) : (refuse s).wbase = s.wbase := rfl
@[simp] theorem refuse_wend (s : State) : (refuse s).wend = s.wend := rfl
@[simp] theorem refuse_win (s : State) : (refuse s).win = s.win := rfl
@[simp] theorem refuse_src (s : State) : (refuse s).src = s.src := rfl
@[simp] theorem refuse_everFaulted (s : State) : (refuse s).everFaulted = s.everFaulted := rfl
@[simp] theorem refuse_io (s : State) : (refuse s).io = s.io ++ [.response (s.responseWith false)] := rfl
@[simp] theorem refuse_pending (s : State) : (refuse s).pending = s.pending := rfl

@[simp] theorem raise_cfg (c : Cause) (s : State) : (raise c s).cfg = s.cfg := rfl
@[simp] theorem raise_cursor (c : Cause) (s : State) : (raise c s).cursor = s.cursor := rfl
@[simp] theorem raise_srcLen (c : Cause) (s : State) : (raise c s).srcLen = s.srcLen := rfl
@[simp] theorem raise_value (c : Cause) (s : State) : (raise c s).value = s.value := rfl
@[simp] theorem raise_len (c : Cause) (s : State) : (raise c s).len = s.len := rfl
@[simp] theorem raise_status (c : Cause) (s : State) : (raise c s).status = { s.status with fault := true } := rfl
@[simp] theorem raise_cause (c : Cause) (s : State) : (raise c s).cause = c := rfl
@[simp] theorem raise_wbase (c : Cause) (s : State) : (raise c s).wbase = s.wbase := rfl
@[simp] theorem raise_wend (c : Cause) (s : State) : (raise c s).wend = s.wend := rfl
@[simp] theorem raise_win (c : Cause) (s : State) : (raise c s).win = s.win := rfl
@[simp] theorem raise_src (c : Cause) (s : State) : (raise c s).src = s.src := rfl
@[simp] theorem raise_everFaulted (c : Cause) (s : State) : (raise c s).everFaulted = true := rfl
@[simp] theorem raise_io (c : Cause) (s : State) : (raise c s).io = s.io ++ [.response { ok := false, cause := c.code, value := s.value, len := s.len, eos := s.status.eos, vvalid := s.status.vvalid }] := rfl
@[simp] theorem raise_pending (c : Cause) (s : State) : (raise c s).pending = s.pending := rfl

@[simp] theorem clearFault_cfg (s : State) : (clearFault s).cfg = s.cfg := rfl
@[simp] theorem clearFault_cursor (s : State) : (clearFault s).cursor = s.cursor := rfl
@[simp] theorem clearFault_srcLen (s : State) : (clearFault s).srcLen = s.srcLen := rfl
@[simp] theorem clearFault_value (s : State) : (clearFault s).value = s.value := rfl
@[simp] theorem clearFault_len (s : State) : (clearFault s).len = s.len := rfl
@[simp] theorem clearFault_status (s : State) : (clearFault s).status = { s.status with fault := false } := rfl
@[simp] theorem clearFault_cause (s : State) : (clearFault s).cause = .none := rfl
@[simp] theorem clearFault_wbase (s : State) : (clearFault s).wbase = s.wbase := rfl
@[simp] theorem clearFault_wend (s : State) : (clearFault s).wend = s.wend := rfl
@[simp] theorem clearFault_win (s : State) : (clearFault s).win = s.win := rfl
@[simp] theorem clearFault_src (s : State) : (clearFault s).src = s.src := rfl
@[simp] theorem clearFault_everFaulted (s : State) : (clearFault s).everFaulted = s.everFaulted := rfl
@[simp] theorem clearFault_io (s : State) : (clearFault s).io = s.io := rfl
@[simp] theorem clearFault_pending (s : State) : (clearFault s).pending = s.pending := rfl

@[simp] theorem construct_cfg (b : Bool) (s : State) : (construct b s).cfg = s.cfg := rfl
@[simp] theorem construct_cursor (b : Bool) (s : State) : (construct b s).cursor = s.cursor := rfl
@[simp] theorem construct_srcLen (b : Bool) (s : State) : (construct b s).srcLen = s.srcLen := rfl
@[simp] theorem construct_value (b : Bool) (s : State) : (construct b s).value = 0 := rfl
@[simp] theorem construct_len (b : Bool) (s : State) : (construct b s).len = 0 := rfl
@[simp] theorem construct_status (b : Bool) (s : State) : (construct b s).status = { bound := true, mode := b, eos := false, vvalid := false, fault := false } := rfl
@[simp] theorem construct_cause (b : Bool) (s : State) : (construct b s).cause = .none := rfl
@[simp] theorem construct_wbase (b : Bool) (s : State) : (construct b s).wbase = s.wbase := rfl
@[simp] theorem construct_wend (b : Bool) (s : State) : (construct b s).wend = s.wend := rfl
@[simp] theorem construct_win (b : Bool) (s : State) : (construct b s).win = s.win := rfl
@[simp] theorem construct_src (b : Bool) (s : State) : (construct b s).src = s.src := rfl
@[simp] theorem construct_everFaulted (b : Bool) (s : State) : (construct b s).everFaulted = s.everFaulted := rfl
@[simp] theorem construct_io (b : Bool) (s : State) : (construct b s).io = s.io := rfl
@[simp] theorem construct_pending (b : Bool) (s : State) : (construct b s).pending = s.pending := rfl

@[simp] theorem completeDecode_cfg (v n : Nat) (s : State) : (completeDecode v n s).cfg = s.cfg := rfl
@[simp] theorem completeDecode_cursor (v n : Nat) (s : State) : (completeDecode v n s).cursor = s.cursor + n := rfl
@[simp] theorem completeDecode_srcLen (v n : Nat) (s : State) : (completeDecode v n s).srcLen = s.srcLen := rfl
@[simp] theorem completeDecode_value (v n : Nat) (s : State) : (completeDecode v n s).value = BitVec.ofNat 64 v := rfl
@[simp] theorem completeDecode_len (v n : Nat) (s : State) : (completeDecode v n s).len = BitVec.ofNat 3 n := rfl
@[simp] theorem completeDecode_status (v n : Nat) (s : State) : (completeDecode v n s).status = s.status.afterDecode v := rfl
@[simp] theorem completeDecode_cause (v n : Nat) (s : State) : (completeDecode v n s).cause = s.cause := rfl
@[simp] theorem completeDecode_wbase (v n : Nat) (s : State) : (completeDecode v n s).wbase = s.wbase := rfl
@[simp] theorem completeDecode_wend (v n : Nat) (s : State) : (completeDecode v n s).wend = s.wend := rfl
@[simp] theorem completeDecode_win (v n : Nat) (s : State) : (completeDecode v n s).win = s.win := rfl
@[simp] theorem completeDecode_src (v n : Nat) (s : State) : (completeDecode v n s).src = s.src := rfl
@[simp] theorem completeDecode_everFaulted (v n : Nat) (s : State) : (completeDecode v n s).everFaulted = s.everFaulted := rfl
@[simp] theorem completeDecode_io (v n : Nat) (s : State) : (completeDecode v n s).io = s.io ++ [.response { ok := true, cause := s.cause.code, value := BitVec.ofNat 64 v, len := BitVec.ofNat 3 n, eos := v == 0, vvalid := true }] := rfl
@[simp] theorem completeDecode_pending (v n : Nat) (s : State) : (completeDecode v n s).pending = s.pending := rfl

@[simp] theorem completeSkip_cfg (n : Nat) (s : State) : (completeSkip n s).cfg = s.cfg := rfl
@[simp] theorem completeSkip_cursor (n : Nat) (s : State) : (completeSkip n s).cursor = s.cursor + n := rfl
@[simp] theorem completeSkip_srcLen (n : Nat) (s : State) : (completeSkip n s).srcLen = s.srcLen := rfl
@[simp] theorem completeSkip_value (n : Nat) (s : State) : (completeSkip n s).value = s.value := rfl
@[simp] theorem completeSkip_len (n : Nat) (s : State) : (completeSkip n s).len = BitVec.ofNat 3 n := rfl
@[simp] theorem completeSkip_status (n : Nat) (s : State) : (completeSkip n s).status = s.status.afterSkip := rfl
@[simp] theorem completeSkip_cause (n : Nat) (s : State) : (completeSkip n s).cause = s.cause := rfl
@[simp] theorem completeSkip_wbase (n : Nat) (s : State) : (completeSkip n s).wbase = s.wbase := rfl
@[simp] theorem completeSkip_wend (n : Nat) (s : State) : (completeSkip n s).wend = s.wend := rfl
@[simp] theorem completeSkip_win (n : Nat) (s : State) : (completeSkip n s).win = s.win := rfl
@[simp] theorem completeSkip_src (n : Nat) (s : State) : (completeSkip n s).src = s.src := rfl
@[simp] theorem completeSkip_everFaulted (n : Nat) (s : State) : (completeSkip n s).everFaulted = s.everFaulted := rfl
@[simp] theorem completeSkip_io (n : Nat) (s : State) : (completeSkip n s).io = s.io ++ [.response { ok := true, cause := s.cause.code, value := s.value, len := BitVec.ofNat 3 n, eos := false, vvalid := false }] := rfl
@[simp] theorem completeSkip_pending (n : Nat) (s : State) : (completeSkip n s).pending = s.pending := rfl

@[simp] theorem prefetchHint_cfg (s : State) : (prefetchHint s).cfg = s.cfg := rfl
@[simp] theorem prefetchHint_cursor (s : State) : (prefetchHint s).cursor = s.cursor := rfl
@[simp] theorem prefetchHint_srcLen (s : State) : (prefetchHint s).srcLen = s.srcLen := rfl
@[simp] theorem prefetchHint_value (s : State) : (prefetchHint s).value = s.value := rfl
@[simp] theorem prefetchHint_len (s : State) : (prefetchHint s).len = s.len := rfl
@[simp] theorem prefetchHint_status (s : State) : (prefetchHint s).status = s.status := rfl
@[simp] theorem prefetchHint_cause (s : State) : (prefetchHint s).cause = s.cause := rfl
@[simp] theorem prefetchHint_wbase (s : State) : (prefetchHint s).wbase = s.wbase := rfl
@[simp] theorem prefetchHint_wend (s : State) : (prefetchHint s).wend = s.wend := rfl
@[simp] theorem prefetchHint_win (s : State) : (prefetchHint s).win = s.win := rfl
@[simp] theorem prefetchHint_src (s : State) : (prefetchHint s).src = s.src := rfl
@[simp] theorem prefetchHint_everFaulted (s : State) : (prefetchHint s).everFaulted = s.everFaulted := rfl
@[simp] theorem prefetchHint_io (s : State) : (prefetchHint s).io = s.io ++ [.prefetchHint (s.cursor - s.wbase)] := rfl
@[simp] theorem prefetchHint_pending (s : State) : (prefetchHint s).pending = s.pending := rfl

@[simp] theorem accept_cfg (s : State) (r : List HostAction) : (s.accept r).cfg = s.cfg := rfl
@[simp] theorem accept_cursor (s : State) (r : List HostAction) : (s.accept r).cursor = s.cursor := rfl
@[simp] theorem accept_srcLen (s : State) (r : List HostAction) : (s.accept r).srcLen = s.srcLen := rfl
@[simp] theorem accept_value (s : State) (r : List HostAction) : (s.accept r).value = s.value := rfl
@[simp] theorem accept_len (s : State) (r : List HostAction) : (s.accept r).len = s.len := rfl
@[simp] theorem accept_status (s : State) (r : List HostAction) : (s.accept r).status = s.status := rfl
@[simp] theorem accept_cause (s : State) (r : List HostAction) : (s.accept r).cause = s.cause := rfl
@[simp] theorem accept_wbase (s : State) (r : List HostAction) : (s.accept r).wbase = s.wbase := rfl
@[simp] theorem accept_wend (s : State) (r : List HostAction) : (s.accept r).wend = s.wend := rfl
@[simp] theorem accept_win (s : State) (r : List HostAction) : (s.accept r).win = s.win := rfl
@[simp] theorem accept_src (s : State) (r : List HostAction) : (s.accept r).src = s.src := rfl
@[simp] theorem accept_everFaulted (s : State) (r : List HostAction) : (s.accept r).everFaulted = s.everFaulted := rfl
@[simp] theorem accept_io (s : State) (r : List HostAction) : (s.accept r).io = [] := rfl
@[simp] theorem accept_pending (s : State) (r : List HostAction) : (s.accept r).pending = r := rfl

@[simp] theorem present_cfg (s : State) (a : HostAction) : (s.present a).cfg = s.cfg := rfl
@[simp] theorem present_cursor (s : State) (a : HostAction) : (s.present a).cursor = s.cursor := rfl
@[simp] theorem present_srcLen (s : State) (a : HostAction) : (s.present a).srcLen = s.srcLen := rfl
@[simp] theorem present_value (s : State) (a : HostAction) : (s.present a).value = s.value := rfl
@[simp] theorem present_len (s : State) (a : HostAction) : (s.present a).len = s.len := rfl
@[simp] theorem present_status (s : State) (a : HostAction) : (s.present a).status = s.status := rfl
@[simp] theorem present_cause (s : State) (a : HostAction) : (s.present a).cause = s.cause := rfl
@[simp] theorem present_wbase (s : State) (a : HostAction) : (s.present a).wbase = s.wbase := rfl
@[simp] theorem present_wend (s : State) (a : HostAction) : (s.present a).wend = s.wend := rfl
@[simp] theorem present_win (s : State) (a : HostAction) : (s.present a).win = s.win := rfl
@[simp] theorem present_src (s : State) (a : HostAction) : (s.present a).src = s.src := rfl
@[simp] theorem present_everFaulted (s : State) (a : HostAction) : (s.present a).everFaulted = s.everFaulted := rfl
@[simp] theorem present_io (s : State) (a : HostAction) : (s.present a).io = s.io := rfl
@[simp] theorem present_pending (s : State) (a : HostAction) : (s.present a).pending = a :: s.pending := rfl

@[simp] theorem requestSource_cfg (o n : Nat) (s : State) : (requestSource o n s).cfg = s.cfg := by
  unfold requestSource; split <;> rfl
@[simp] theorem requestSource_cursor (o n : Nat) (s : State) : (requestSource o n s).cursor = s.cursor := by
  unfold requestSource; split <;> rfl
@[simp] theorem requestSource_srcLen (o n : Nat) (s : State) : (requestSource o n s).srcLen = s.srcLen := by
  unfold requestSource; split <;> rfl
@[simp] theorem requestSource_value (o n : Nat) (s : State) : (requestSource o n s).value = s.value := by
  unfold requestSource; split <;> rfl
@[simp] theorem requestSource_len (o n : Nat) (s : State) : (requestSource o n s).len = s.len := by
  unfold requestSource; split <;> rfl
@[simp] theorem requestSource_status (o n : Nat) (s : State) : (requestSource o n s).status = s.status := by
  unfold requestSource; split <;> rfl
@[simp] theorem requestSource_cause (o n : Nat) (s : State) : (requestSource o n s).cause = s.cause := by
  unfold requestSource; split <;> rfl
@[simp] theorem requestSource_wbase (o n : Nat) (s : State) : (requestSource o n s).wbase = s.wbase := by
  unfold requestSource; split <;> rfl
@[simp] theorem requestSource_wend (o n : Nat) (s : State) : (requestSource o n s).wend = s.wend := by
  unfold requestSource; split <;> rfl
@[simp] theorem requestSource_win (o n : Nat) (s : State) : (requestSource o n s).win = s.win := by
  unfold requestSource; split <;> rfl
@[simp] theorem requestSource_src (o n : Nat) (s : State) : (requestSource o n s).src = s.src := by
  unfold requestSource; split <;> rfl
@[simp] theorem requestSource_everFaulted (o n : Nat) (s : State) : (requestSource o n s).everFaulted = s.everFaulted := by
  unfold requestSource; split <;> rfl
@[simp] theorem requestSource_pending (o n : Nat) (s : State) : (requestSource o n s).pending = s.pending := by
  unfold requestSource; split <;> rfl
@[simp] theorem requestSource_io (o n : Nat) (s : State) : (requestSource o n s).io = s.io ++ (if n = 0 then [] else [.srcRequest o n]) := by
  unfold requestSource; split <;> simp

@[simp] theorem refill_cfg (s : State) : (refill s).cfg = s.cfg := by
  unfold refill; split <;> simp
@[simp] theorem refill_cursor (s : State) : (refill s).cursor = s.cursor := by
  unfold refill; split <;> simp
@[simp] theorem refill_srcLen (s : State) : (refill s).srcLen = s.srcLen := by
  unfold refill; split <;> simp
@[simp] theorem refill_value (s : State) : (refill s).value = s.value := by
  unfold refill; split <;> simp
@[simp] theorem refill_len (s : State) : (refill s).len = s.len := by
  unfold refill; split <;> simp
@[simp] theorem refill_status (s : State) : (refill s).status = s.status := by
  unfold refill; split <;> simp
@[simp] theorem refill_cause (s : State) : (refill s).cause = s.cause := by
  unfold refill; split <;> simp
@[simp] theorem refill_src (s : State) : (refill s).src = s.src := by
  unfold refill; split <;> simp
@[simp] theorem refill_everFaulted (s : State) : (refill s).everFaulted = s.everFaulted := by
  unfold refill; split <;> simp
@[simp] theorem refill_pending (s : State) : (refill s).pending = s.pending := by
  unfold refill; split <;> simp

@[simp] theorem fetch8_after_cfg (s : State) : (fetch8 s).after.cfg = s.cfg := by
  unfold fetch8 fetch8Buffered fetch8Direct
  split
  · simp only [prefetchHint_cfg]; split <;> simp
  · simp
@[simp] theorem fetch8_after_cursor (s : State) : (fetch8 s).after.cursor = s.cursor := by
  unfold fetch8 fetch8Buffered fetch8Direct
  split
  · simp only [prefetchHint_cursor]; split <;> simp
  · simp
@[simp] theorem fetch8_after_srcLen (s : State) : (fetch8 s).after.srcLen = s.srcLen := by
  unfold fetch8 fetch8Buffered fetch8Direct
  split
  · simp only [prefetchHint_srcLen]; split <;> simp
  · simp
@[simp] theorem fetch8_after_value (s : State) : (fetch8 s).after.value = s.value := by
  unfold fetch8 fetch8Buffered fetch8Direct
  split
  · simp only [prefetchHint_value]; split <;> simp
  · simp
@[simp] theorem fetch8_after_len (s : State) : (fetch8 s).after.len = s.len := by
  unfold fetch8 fetch8Buffered fetch8Direct
  split
  · simp only [prefetchHint_len]; split <;> simp
  · simp
@[simp] theorem fetch8_after_status (s : State) : (fetch8 s).after.status = s.status := by
  unfold fetch8 fetch8Buffered fetch8Direct
  split
  · simp only [prefetchHint_status]; split <;> simp
  · simp
@[simp] theorem fetch8_after_cause (s : State) : (fetch8 s).after.cause = s.cause := by
  unfold fetch8 fetch8Buffered fetch8Direct
  split
  · simp only [prefetchHint_cause]; split <;> simp
  · simp
@[simp] theorem fetch8_after_src (s : State) : (fetch8 s).after.src = s.src := by
  unfold fetch8 fetch8Buffered fetch8Direct
  split
  · simp only [prefetchHint_src]; split <;> simp
  · simp
@[simp] theorem fetch8_after_everFaulted (s : State) : (fetch8 s).after.everFaulted = s.everFaulted := by
  unfold fetch8 fetch8Buffered fetch8Direct
  split
  · simp only [prefetchHint_everFaulted]; split <;> simp
  · simp
@[simp] theorem fetch8_after_pending (s : State) : (fetch8 s).after.pending = s.pending := by
  unfold fetch8 fetch8Buffered fetch8Direct
  split
  · simp only [prefetchHint_pending]; split <;> simp
  · simp

@[simp] theorem writeReg_cfg (a : BitVec 3) (d : Nat) (s : State) : (writeReg a d s).cfg = s.cfg := by
  unfold writeReg; split <;> rfl
@[simp] theorem writeReg_value (a : BitVec 3) (d : Nat) (s : State) : (writeReg a d s).value = s.value := by
  unfold writeReg; split <;> rfl
@[simp] theorem writeReg_len (a : BitVec 3) (d : Nat) (s : State) : (writeReg a d s).len = s.len := by
  unfold writeReg; split <;> rfl
@[simp] theorem writeReg_cause (a : BitVec 3) (d : Nat) (s : State) : (writeReg a d s).cause = s.cause := by
  unfold writeReg; split <;> rfl
@[simp] theorem writeReg_wbase (a : BitVec 3) (d : Nat) (s : State) : (writeReg a d s).wbase = s.wbase := by
  unfold writeReg; split <;> rfl
@[simp] theorem writeReg_wend (a : BitVec 3) (d : Nat) (s : State) : (writeReg a d s).wend = s.wend := by
  unfold writeReg; split <;> rfl
@[simp] theorem writeReg_win (a : BitVec 3) (d : Nat) (s : State) : (writeReg a d s).win = s.win := by
  unfold writeReg; split <;> rfl
@[simp] theorem writeReg_src (a : BitVec 3) (d : Nat) (s : State) : (writeReg a d s).src = s.src := by
  unfold writeReg; split <;> rfl
@[simp] theorem writeReg_everFaulted (a : BitVec 3) (d : Nat) (s : State) : (writeReg a d s).everFaulted = s.everFaulted := by
  unfold writeReg; split <;> rfl
@[simp] theorem writeReg_io (a : BitVec 3) (d : Nat) (s : State) : (writeReg a d s).io = s.io := by
  unfold writeReg; split <;> rfl
@[simp] theorem writeReg_pending (a : BitVec 3) (d : Nat) (s : State) : (writeReg a d s).pending = s.pending := by
  unfold writeReg; split <;> rfl

@[simp] theorem responseWith_visible (ok : Bool) (s : State) :
    s.responseWith ok = { ok := ok, cause := s.cause.code, value := s.value, len := s.len,
                          eos := s.status.eos, vvalid := s.status.vvalid } := rfl

@[simp] theorem afterDecode_bound (v : Nat) (st : Status) : (st.afterDecode v).bound = st.bound := rfl
@[simp] theorem afterDecode_mode (v : Nat) (st : Status) : (st.afterDecode v).mode = st.mode := rfl
@[simp] theorem afterDecode_eos (v : Nat) (st : Status) : (st.afterDecode v).eos = (v == 0) := rfl
@[simp] theorem afterDecode_vvalid (v : Nat) (st : Status) : (st.afterDecode v).vvalid = true := rfl
@[simp] theorem afterDecode_fault (v : Nat) (st : Status) : (st.afterDecode v).fault = st.fault := rfl
@[simp] theorem afterSkip_bound (st : Status) : st.afterSkip.bound = st.bound := rfl
@[simp] theorem afterSkip_mode (st : Status) : st.afterSkip.mode = st.mode := rfl
@[simp] theorem afterSkip_eos (st : Status) : st.afterSkip.eos = false := rfl
@[simp] theorem afterSkip_vvalid (st : Status) : st.afterSkip.vvalid = false := rfl
@[simp] theorem afterSkip_fault (st : Status) : st.afterSkip.fault = st.fault := rfl
@[simp] theorem unbind_bound (st : Status) : st.unbind.bound = false := rfl
@[simp] theorem unbind_mode (st : Status) : st.unbind.mode = st.mode := rfl
@[simp] theorem unbind_eos (st : Status) : st.unbind.eos = st.eos := rfl
@[simp] theorem unbind_vvalid (st : Status) : st.unbind.vvalid = st.vvalid := rfl
@[simp] theorem unbind_fault (st : Status) : st.unbind.fault = st.fault := rfl

end Sys2Proof.Machine
end

