-- ==== Sys2Proof/Laws/Command.lean ====
section
/-! SUPPORT. What the shared operations of the commands can do, said once: the checks of Execute, the refill, the completion of a command. -/

namespace Sys2Proof.Machine

theorem dataCommand_of_fault {s : State} (h : s.status.fault = true) (k : Word → Nat → State → State) :
    dataCommand s k = refuse s := by
  simp [dataCommand, unlessFaulted, h]

theorem dataCommand_of_unbound {s : State} (hf : s.status.fault = false)
    (hb : s.status.bound = false) (k : Word → Nat → State → State) :
    dataCommand s k = raise .notBound s := by
  simp [dataCommand, unlessFaulted, hf, hb]

theorem dataCommand_of_ready {s : State} (h : s.Ready) (k : Word → Nat → State → State) :
    dataCommand s k = k (fetch8 s).word (fetch8 s).avail (fetch8 s).after := by
  simp [dataCommand, unlessFaulted, h.bound, h.noFault]

/-- What a data command can do: be refused, raise NotBound, or finish on the fetched pair. -/
theorem dataCommand_cases (s : State) (k : Word → Nat → State → State) :
    (s.status.fault = true ∧ dataCommand s k = refuse s) ∨
    (s.status.fault = false ∧ s.status.bound = false ∧ dataCommand s k = raise .notBound s) ∨
    (s.Ready ∧ dataCommand s k = k (fetch8 s).word (fetch8 s).avail (fetch8 s).after) := by
  cases hf : s.status.fault with
  | true => exact .inl ⟨rfl, dataCommand_of_fault hf k⟩
  | false =>
    cases hb : s.status.bound with
    | false => exact .inr (.inl ⟨rfl, rfl, dataCommand_of_unbound hf hb k⟩)
    | true => exact .inr (.inr ⟨⟨hb, hf⟩, dataCommand_of_ready ⟨hb, hf⟩ k⟩)

/-- What a reserved code can do. -/
theorem reservedCode_cases (s : State) :
    (s.status.fault = true ∧ reservedCode s = refuse s) ∨
    (s.status.fault = false ∧ reservedCode s = raise .illegalCommand s) := by
  cases hf : s.status.fault <;> simp [reservedCode, unlessFaulted, hf]

/-- What a DECODE does with a fetched pair. -/
theorem finishDecode_cases (w : Word) (a : Nat) (s : State) :
    (∃ v n, decodeWord w a = .ok v n ∧ finishDecode w a s = completeDecode v n s) ∨
    (∃ sub, decodeWord w a = .malformed sub ∧ finishDecode w a s = raise sub.cause s) := by
  cases h : decodeWord w a with
  | ok v n => exact .inl ⟨v, n, rfl, by simp [finishDecode, h]⟩
  | malformed sub => exact .inr ⟨sub, rfl, by simp [finishDecode, h]⟩

/-- What a SKIP does with a fetched pair. -/
theorem finishSkip_cases (w : Word) (a : Nat) (s : State) :
    (∃ n, skipWord w a = .ok n ∧ finishSkip w a s = completeSkip n s) ∨
    (∃ sub, skipWord w a = .malformed sub ∧ finishSkip w a s = raise sub.cause s) := by
  cases h : skipWord w a with
  | ok n => exact .inl ⟨n, rfl, by simp [finishSkip, h]⟩
  | malformed sub => exact .inr ⟨sub, rfl, by simp [finishSkip, h]⟩

/-- A malformed input raises a cause of its own. -/
theorem cause_ne_none (sub : Malformed) : sub.cause ≠ .none := by cases sub <;> decide

theorem refill_of_lt {s : State} (h : s.cursor < s.srcLen) :
    refill s = { requestSource s.cursor (min s.cfg.w (s.srcLen - s.cursor)) s with
      win := s.win.writeList 0 (srcRead s s.cursor (min s.cfg.w (s.srcLen - s.cursor)))
      wbase := s.cursor, wend := s.cursor + min s.cfg.w (s.srcLen - s.cursor) } := by
  simp [refill, h]

theorem refill_of_le {s : State} (h : s.srcLen ≤ s.cursor) :
    refill s = { s with wbase := s.srcLen, wend := s.srcLen } := by
  simp [refill, Nat.not_lt.2 h]

/-- The copied part of the window after a refill. -/
theorem refill_win_copied {s : State} (hw : s.win.wf = true) (h : s.cursor < s.srcLen) {k : Nat}
    (hk : k < min s.cfg.w (s.srcLen - s.cursor)) :
    (refill s).win.read k = s.src.read (s.cursor + k) := by
  rw [refill_of_lt h]
  have := Memory.read_writeList_at hw 0
    (srcRead s s.cursor (min s.cfg.w (s.srcLen - s.cursor))) (i := k) (by simpa [srcRead] using hk)
  rw [Nat.zero_add] at this
  rw [this, srcRead, Memory.getD_readList _ _ hk]

/-- The rest of the window after a refill. -/
theorem refill_win_kept {s : State} {k : Nat}
    (hk : min s.cfg.w (s.srcLen - s.cursor) ≤ k) : (refill s).win.read k = s.win.read k := by
  rcases Nat.lt_or_ge s.cursor s.srcLen with h | h
  · rw [refill_of_lt h]
    exact Memory.read_writeList_other _ _ _ (.inr (by simpa [srcRead] using hk))
  · rw [refill_of_le h]

theorem refill_win_wf {s : State} (hw : s.win.wf = true) : (refill s).win.wf = true := by
  rcases Nat.lt_or_ge s.cursor s.srcLen with h | h
  · rw [refill_of_lt h]; exact Memory.wf_writeList hw _ _
  · rw [refill_of_le h]; exact hw

@[simp] theorem WORD_BYTES_eq : WORD_BYTES = 8 := rfl
@[simp] theorem MAX_LEN_eq : MAX_LEN = 6 := rfl

theorem bytesAhead_length (s : State) : s.bytesAhead.length = min 8 (s.srcLen - s.cursor) := by
  simp [State.bytesAhead, srcRead]

theorem bytesAhead_getD (s : State) {i : Nat} (h : i < s.bytesAhead.length) :
    s.bytesAhead.getD i 0 = s.src.read (s.cursor + i) := by
  rw [bytesAhead_length] at h
  exact Memory.getD_readList _ _ h

/-- A direct fetch sees the bytes ahead, in any state. -/
theorem fetch8Direct_eq (s : State) :
    fetch8Direct s = { word := assemble8 s.bytesAhead, avail := s.bytesAhead.length,
                       after := requestSource s.cursor s.bytesAhead.length s } := by
  have h : (if s.cursor < s.srcLen then min WORD_BYTES (s.srcLen - s.cursor) else 0) =
      min 8 (s.srcLen - s.cursor) := by
    rw [WORD_BYTES_eq]; split <;> omega
  rw [bytesAhead_length]
  simp only [fetch8Direct, h]
  rfl

@[simp] theorem responses_append (a b : List PortEvent) :
    responses (a ++ b) = responses a ++ responses b := by simp [responses]
@[simp] theorem requests_append (a b : List PortEvent) :
    requests (a ++ b) = requests a ++ requests b := by simp [requests]
@[simp] theorem hints_append (a b : List PortEvent) :
    hints (a ++ b) = hints a ++ hints b := by simp [hints]
@[simp] theorem hints_nil : hints [] = [] := rfl
@[simp] theorem hints_response (r : Response) : hints [.response r] = [] := rfl
@[simp] theorem hints_srcRequest (o n : Nat) : hints [.srcRequest o n] = [] := rfl
@[simp] theorem hints_prefetchHint (k : Nat) : hints [.prefetchHint k] = [k] := rfl
@[simp] theorem responses_nil : responses [] = [] := rfl
@[simp] theorem requests_nil : requests [] = [] := rfl
@[simp] theorem responses_response (r : Response) : responses [.response r] = [r] := rfl
@[simp] theorem requests_response (r : Response) : requests [.response r] = [] := rfl
@[simp] theorem responses_srcRequest (o n : Nat) : responses [.srcRequest o n] = [] := rfl
@[simp] theorem requests_srcRequest (o n : Nat) : requests [.srcRequest o n] = [(o, n)] := rfl
@[simp] theorem responses_prefetchHint (k : Nat) : responses [.prefetchHint k] = [] := rfl
@[simp] theorem requests_prefetchHint (k : Nat) : requests [.prefetchHint k] = [] := rfl

@[simp] theorem refill_responses (s : State) : responses (refill s).io = responses s.io := by
  unfold refill; split <;> simp; split <;> simp

@[simp] theorem fetch8_responses (s : State) :
    responses (fetch8 s).after.io = responses s.io := by
  unfold fetch8 fetch8Buffered fetch8Direct
  split
  · simp only [prefetchHint_io]; split <;> simp
  · simp; split <;> simp

/-- What the host sees is the same before and after a fetch. -/
@[simp] theorem fetch8_visible (s : State) : (fetch8 s).after.visible = s.visible := by
  simp [State.visible]

/-- The window a fetch leaves: the one before it, or the one a refill loads, the latter exactly in
buffered mode when a refresh is needed. -/
theorem fetch8_after_window (s : State) :
    ((fetch8 s).after.wbase, (fetch8 s).after.wend, (fetch8 s).after.win) =
      if s.status.mode = true ∧ needRefresh s = true then
        ((refill s).wbase, (refill s).wend, (refill s).win)
      else (s.wbase, s.wend, s.win) := by
  unfold fetch8 fetch8Buffered fetch8Direct
  cases s.status.mode <;> cases needRefresh s <;> simp

/-- The request of a refill: one, clipped to the window's size and to the true end, or none at or past
it. -/
theorem refill_requests (s : State) :
    requests (refill s).io = requests s.io ++
      (if s.cursor < s.srcLen then [(s.cursor, min s.cfg.w (s.srcLen - s.cursor))] else []) := by
  have := s.cfg.w_ge
  rcases Nat.lt_or_ge s.cursor s.srcLen with h | h
  · rw [refill_of_lt h, if_pos h]
    simp only [requestSource_io, requests_append,
      if_neg (show ¬ min s.cfg.w (s.srcLen - s.cursor) = 0 by omega), requests_srcRequest]
  · rw [refill_of_le h, if_neg (by omega)]; simp

/-- The request of a fetch, in either form. -/
theorem fetch8_requests (s : State) :
    requests (fetch8 s).after.io = requests s.io ++
      (if s.cursor < s.srcLen then
        (if s.status.mode = false then [(s.cursor, min 8 (s.srcLen - s.cursor))]
         else if needRefresh s then [(s.cursor, min s.cfg.w (s.srcLen - s.cursor))] else [])
       else []) := by
  unfold fetch8
  cases hm : s.status.mode with
  | true =>
    simp only [fetch8Buffered, if_true, prefetchHint_io, requests_append, requests_prefetchHint,
      List.append_nil]
    cases needRefresh s
    · simp
    · simp [refill_requests]
  | false =>
    simp only [Bool.false_eq_true, if_false, fetch8Direct_eq, requestSource_io, requests_append,
      bytesAhead_length, if_true]
    congr 1
    split
    · rw [if_neg (by omega)]; rfl
    · rw [if_pos (by omega)]; rfl

@[simp] theorem refill_hints (s : State) : hints (refill s).io = hints s.io := by
  unfold refill; split <;> simp; split <;> simp

/-- The pulse of a fetch: one in buffered mode, none in direct mode. -/
theorem fetch8_hints (s : State) :
    hints (fetch8 s).after.io = hints s.io ++
      (if s.status.mode = true then [s.cursor - (fetch8 s).after.wbase] else []) := by
  unfold fetch8
  cases hm : s.status.mode with
  | true =>
    simp only [fetch8Buffered, if_true, prefetchHint_io, hints_append, hints_prefetchHint,
      prefetchHint_wbase]
    cases needRefresh s <;> simp
  | false =>
    simp only [fetch8Direct, Bool.false_eq_true, if_false, requestSource_io, hints_append]
    split <;> simp; split <;> simp

end Sys2Proof.Machine
end

