-- ==== Sys2Proof/Laws/Legal.lean ====
section
/-! SUPPORT. A check that a written-out state is legal, and that it suffices. -/

namespace Sys2Proof.Machine

/-- Every listed address is below a bound. -/
def Memory.below (n : Nat) (m : Memory) : Bool := m.all fun c => decide (c.1 < n)

theorem Memory.read_above {n : Nat} {m : Memory} (h : m.below n = true) {a : Nat} (ha : n ≤ a) :
    m.read a = Memory.unlisted := by
  induction m with
  | nil => rfl
  | cons c m ih =>
    obtain ⟨b, u⟩ := c
    simp only [Memory.below, List.all_cons, Bool.and_eq_true, decide_eq_true_eq] at h
    rw [Memory.read, if_neg (by omega)]
    exact ih h.2

/-- The check of `State.Legal`, clause by clause. -/
def State.legalCheck (s : State) : Bool :=
  decide (s.cursor < 2 ^ s.cfg.aw) && decide (s.srcLen < 2 ^ s.cfg.aw) &&
  decide (s.wbase < 2 ^ s.cfg.aw) && decide (s.wend < 2 ^ s.cfg.aw) &&
  decide (s.value.toNat < 2 ^ 42) && decide (s.len.toNat ≤ MAX_LEN) &&
  (s.status.fault == decide (s.cause ≠ .none)) &&
  (!s.status.eos || s.status.vvalid && decide (s.value = 0)) &&
  (!s.status.fault || s.everFaulted) &&
  s.src.wf && s.win.wf && s.win.below s.cfg.w && s.src.below (2 ^ s.cfg.aw - 1) &&
  (!(s.status.bound && s.status.mode) ||
    decide (s.wbase ≤ s.wend) && decide (s.wend ≤ s.srcLen) && decide (s.wend - s.wbase ≤ s.cfg.w) &&
    (List.range (s.wend - s.wbase)).all fun k => s.win.read k == s.src.read (s.wbase + k))

theorem State.legal_of_check {s : State} (h : s.legalCheck = true) : s.Legal := by
  simp only [State.legalCheck, Bool.and_eq_true, Bool.or_eq_true, decide_eq_true_eq, beq_iff_eq,
    Bool.not_eq_true', List.all_eq_true, List.mem_range] at h
  obtain ⟨⟨⟨⟨⟨⟨⟨⟨⟨⟨⟨⟨⟨h1, h2⟩, h3⟩, h4⟩, h5⟩, h6⟩, h7⟩, h8⟩, h9⟩, h10⟩, h11⟩, h12⟩, h13⟩, h14⟩ := h
  refine ⟨⟨h1, h2, h3, h4⟩, ⟨h5, h6, ?_, ?_, ?_⟩, ⟨h10, h11, ?_, ?_⟩, ?_⟩
  · rw [h7, decide_eq_true_eq]
  · intro he; simpa [he] using h8
  · intro hf; simpa [hf] using h9
  · intro k hk; exact Memory.read_above h12 hk
  · intro k hk; exact Memory.read_above h13 hk
  · intro hb hm
    rcases h14 with h | ⟨⟨⟨k1, k2⟩, k3⟩, k4⟩
    · simp [hb, hm] at h
    · exact ⟨k1, k2, k3, k4⟩

end Sys2Proof.Machine
end

