-- ==== Sys2Proof/Laws/PerInstr.lean ====
section
/-! SUPPORT. Facts about every instruction as syntax, one lemma per constructor. -/

namespace Sys2Proof.Laws

/-- An encoding has the size of its form (30_encoding.md R93, R103). -/
def EncodeSize.Statement (i : Instr) : Prop := (encode i).length = i.size

namespace EncodeSize

theorem nop : Statement .nop := rfl
theorem decode : Statement .decode := rfl
theorem skip : Statement .skip := rfl
theorem bindD : Statement .bindD := rfl
theorem bindB : Statement .bindB := rfl
theorem reserved100 : Statement .reserved100 := rfl
theorem reserved101 : Statement .reserved101 := rfl
theorem reserved110 : Statement .reserved110 := rfl
theorem fui1 (p0 : Payload) : Statement (.fui1 p0) := rfl
theorem fui2 (p0 p1 : Payload) : Statement (.fui2 p0 p1) := rfl
theorem fui3 (p0 p1 p2 : Payload) : Statement (.fui3 p0 p1 p2) := rfl
theorem fui4 (p0 p1 p2 p3 : Payload) : Statement (.fui4 p0 p1 p2 p3) := rfl
theorem fui5 (p0 p1 p2 p3 p4 : Payload) : Statement (.fui5 p0 p1 p2 p3 p4) := rfl
theorem fui6 (p0 p1 p2 p3 p4 p5 : Payload) : Statement (.fui6 p0 p1 p2 p3 p4 p5) := rfl
theorem malformed (p0 p1 p2 p3 p4 p5 : Payload) : Statement (.malformed p0 p1 p2 p3 p4 p5) := rfl
theorem sentinel : Statement .sentinel := rfl

end EncodeSize

end Sys2Proof.Laws
end

