-- ==== Sys2Proof/Laws/Step.lean ====
section
/-! SUPPORT. What an instruction and a step can do, said once. -/

namespace Sys2Proof.Machine

/-- Every instruction answers a next state: no meaning of this machine stops. -/
theorem exec_next (i : Instr) (s : State) : ∃ t, exec i s = .next t := by
  cases i <;> exact ⟨_, rfl⟩

/-- Every code of the command port is an instruction of the command level. -/
theorem decodeCommand_level (c : BitVec 3) : (decodeCommand c).level = .command := by
  revert c; decide

/-- The instruction is a data command: DECODE, SKIP, or a run that a DECODE consumes. -/
def IsData (i : Instr) : Prop := i = .decode ∨ i = .skip ∨ i.level = .stream

/-- The instruction is a reserved code. -/
def IsReserved (i : Instr) : Prop :=
  i = .reserved100 ∨ i = .reserved101 ∨ i = .reserved110

/-- What a data command can do in a ready state: deliver a value, pass a run, or raise a malformed
input. -/
inductive DataResult (s : State) (i : Instr) (t : State) : Prop where
  | delivered (v n : Nat) (hi : i ≠ .skip) (h1 : 1 ≤ n) (h6 : n ≤ 6)
      (ht : t = completeDecode v n (fetch8 s).after)
  | skipped (n : Nat) (hi : i = .skip) (h1 : 1 ≤ n) (h6 : n ≤ 6)
      (ht : t = completeSkip n (fetch8 s).after)
  | malformed (sub : Malformed) (ht : t = raise sub.cause (fetch8 s).after)

/-- What an instruction can do. -/
inductive ExecResult (s : State) (i : Instr) (t : State) : Prop where
  | nop (hi : i = .nop) (ht : t = respond true s)
  | bindD (hi : i = .bindD) (ht : t = respond true (construct false s))
  | bindB (hi : i = .bindB) (ht : t = respond true (refill (construct true s)))
  | refused (hi : IsReserved i ∨ IsData i) (hf : s.status.fault = true) (ht : t = refuse s)
  | illegal (hi : IsReserved i) (hf : s.status.fault = false) (ht : t = raise .illegalCommand s)
  | unbound (hi : IsData i) (hf : s.status.fault = false) (hb : s.status.bound = false)
      (ht : t = raise .notBound s)
  | data (hi : IsData i) (hr : s.Ready) (hd : DataResult s i t)

theorem dataCommand_result {s : State} {i : Instr} (hi : IsData i)
    {k : Word → Nat → State → State}
    (hk : s.Ready → DataResult s i (k (fetch8 s).word (fetch8 s).avail (fetch8 s).after)) :
    ExecResult s i (dataCommand s k) := by
  rcases dataCommand_cases s k with ⟨hf, h⟩ | ⟨hf, hb, h⟩ | ⟨hr, h⟩
  · exact .refused (.inr hi) hf h
  · exact .unbound hi hf hb h
  · exact .data hi hr (h ▸ hk hr)

theorem reservedCode_result {s : State} {i : Instr} (hi : IsReserved i) :
    ExecResult s i (reservedCode s) := by
  rcases reservedCode_cases s with ⟨hf, h⟩ | ⟨hf, h⟩
  · exact .refused (.inl hi) hf h
  · exact .illegal hi hf h

theorem consumeRun_result {s : State} {i : Instr} (hi : i.level = .stream) (ps : List Payload)
    (h1 : 1 ≤ ps.length) (h6 : ps.length ≤ 6) : ExecResult s i (consumeRun ps s) := by
  refine dataCommand_result (.inr (.inr hi)) fun _ => ?_
  split
  · exact .delivered _ _ (by rintro rfl; cases hi) h1 h6 rfl
  · exact .malformed .truncated rfl

/-- The inversion lemma of `exec`: every next state of every instruction is one of these. -/
theorem exec_cases {i : Instr} {s t : State} (h : exec i s = .next t) : ExecResult s i t := by
  cases i with
  | nop => cases h; exact .nop rfl rfl
  | bindD => cases h; exact .bindD rfl rfl
  | bindB => cases h; exact .bindB rfl rfl
  | decode =>
    cases h
    refine dataCommand_result (.inl rfl) fun _ => ?_
    rcases finishDecode_cases (fetch8 s).word (fetch8 s).avail (fetch8 s).after with
      ⟨v, n, hd, h⟩ | ⟨sub, _, h⟩
    · obtain ⟨h1, h6⟩ := findTerm_ok_range ((decodeWord_eq_ok_iff ..).1 hd).1
      exact .delivered v n (by decide) h1 h6 h
    · exact .malformed sub h
  | skip =>
    cases h
    refine dataCommand_result (.inr (.inl rfl)) fun _ => ?_
    rcases finishSkip_cases (fetch8 s).word (fetch8 s).avail (fetch8 s).after with
      ⟨n, hd, h⟩ | ⟨sub, _, h⟩
    · obtain ⟨h1, h6⟩ := findTerm_ok_range hd
      exact .skipped n rfl h1 h6 h
    · exact .malformed sub h
  | reserved100 => cases h; exact reservedCode_result (.inl rfl)
  | reserved101 => cases h; exact reservedCode_result (.inr (.inl rfl))
  | reserved110 => cases h; exact reservedCode_result (.inr (.inr rfl))
  | fui1 p0 => cases h; exact consumeRun_result rfl [p0] (by simp) (by simp)
  | fui2 p0 p1 => cases h; exact consumeRun_result rfl [p0, p1] (by simp) (by simp)
  | fui3 p0 p1 p2 => cases h; exact consumeRun_result rfl [p0, p1, p2] (by simp) (by simp)
  | fui4 p0 p1 p2 p3 => cases h; exact consumeRun_result rfl [p0, p1, p2, p3] (by simp) (by simp)
  | fui5 p0 p1 p2 p3 p4 =>
    cases h; exact consumeRun_result rfl [p0, p1, p2, p3, p4] (by simp) (by simp)
  | fui6 p0 p1 p2 p3 p4 p5 =>
    cases h; exact consumeRun_result rfl [p0, p1, p2, p3, p4, p5] (by simp) (by simp)
  | malformed p0 p1 p2 p3 p4 p5 =>
    cases h
    refine dataCommand_result (.inr (.inr rfl)) fun _ => ?_
    by_cases h : MAX_LEN ≤ (fetch8 s).avail
    · exact .malformed .overlong (by simp only [h, if_true]; rfl)
    · exact .malformed .truncated (by simp only [h, if_false]; rfl)
  | sentinel => cases h; exact consumeRun_result rfl [0] (by simp) (by simp)

/-- No response is among the events before the response. -/
theorem responses_take_trafficOf (o : Outcome) (n : Nat) :
    responses ((trafficOf o).take n) = [] := by
  rw [responses, List.filterMap_eq_nil_iff]
  intro e he
  have hm := List.mem_of_mem_take he
  cases o with
  | next t =>
    have := (List.mem_filter.1 hm).2
    cases e <;> first | rfl | cases this
  | fault r => cases hm
  | refused r => cases hm

/-- The ports of a command that went on: what it drove before its response, then the response. -/
theorem exec_io {i : Instr} {s t : State} (hs : s.io = []) (h : exec i s = .next t) :
    ∃ r, t.io = trafficOf (.next t) ++ [.response r] := by
  have hf : ∀ l : List PortEvent, responses l = [] → l.filter PortEvent.isTraffic = l := by
    intro l hl
    rw [List.filter_eq_self]
    intro e he
    rw [responses, List.filterMap_eq_nil_iff] at hl
    have := hl e he
    cases e <;> first | rfl | cases this
  have hsplit : ∀ (l : List PortEvent) (r : Response), responses l = [] →
      t.io = l ++ [.response r] → ∃ r, t.io = trafficOf (.next t) ++ [.response r] := by
    intro l r hl ht
    refine ⟨r, ?_⟩
    rw [trafficOf, ht, List.filter_append, hf l hl]
    simp [PortEvent.isTraffic]
  have h0 : responses s.io = [] := by rw [hs]; rfl
  cases exec_cases h with
  | nop _ ht => subst ht; exact hsplit s.io _ h0 rfl
  | bindD _ ht => subst ht; exact hsplit s.io _ h0 rfl
  | bindB _ ht =>
    subst ht; exact hsplit (refill (construct true s)).io _ (by rw [refill_responses]; exact h0) rfl
  | refused _ _ ht => subst ht; exact hsplit s.io _ h0 rfl
  | illegal _ _ ht => subst ht; exact hsplit s.io _ h0 rfl
  | unbound _ _ _ ht => subst ht; exact hsplit s.io _ h0 rfl
  | data _ _ hd =>
    have h1 : responses (fetch8 s).after.io = [] := (fetch8_responses s).trans h0
    cases hd with
    | delivered _ _ _ _ _ ht => subst ht; exact hsplit _ _ h1 rfl
    | skipped _ _ _ _ ht => subst ht; exact hsplit _ _ h1 rfl
    | malformed _ ht => subst ht; exact hsplit _ _ h1 rfl

/-- What a step does, by the action it accepts. -/
theorem step_cases {s t : State} (h : step s = .next t) :
    (s.pending = [] ∧ t = s.accept []) ∨
    (∃ c rest, s.pending = .command c :: rest ∧ exec (decodeCommand c) (s.accept rest) = .next t) ∨
    (∃ a d rest, s.pending = .writeReg a d :: rest ∧ t = writeReg a d (s.accept rest)) ∨
    (∃ a rest, s.pending = .readReg a :: rest ∧
      t = (s.accept rest).emit (.readData (readReg (s.accept rest) a))) ∨
    (∃ o bs rest, s.pending = .fill o bs :: rest ∧ hostFill o bs (s.accept rest) = .next t) ∨
    (∃ a rest io, s.pending = a :: rest ∧ a.IsReset ∧ responses io = [] ∧
      t = { State.resetWith s.cfg with src := s.src, io := io, pending := rest }) := by
  unfold step at h
  split at h
  · next hp => cases h; exact .inl ⟨hp, rfl⟩
  · next c rest hp => exact .inr (.inl ⟨c, rest, hp, h⟩)
  · next a d rest hp => cases h; exact .inr (.inr (.inl ⟨a, d, rest, hp, rfl⟩))
  · next a rest hp => cases h; exact .inr (.inr (.inr (.inl ⟨a, rest, hp, rfl⟩)))
  · next o bs rest hp => exact .inr (.inr (.inr (.inr (.inl ⟨o, bs, rest, hp, h⟩))))
  · next rest hp =>
    cases h; exact .inr (.inr (.inr (.inr (.inr ⟨.rst, rest, [], hp, trivial, rfl, rfl⟩))))
  · next c n rest hp =>
    cases h
    exact .inr (.inr (.inr (.inr (.inr ⟨.rstDuring c n, rest, _, hp, trivial,
      responses_take_trafficOf _ n, rfl⟩))))

/-- What a fill that goes on does: every byte stands in the offset space, a bound source keeps its
bytes, and only the source changes. -/
theorem hostFill_next {o : Nat} {bs : List Byte} {s t : State} (h : hostFill o bs s = .next t) :
    (bs = [] ∨ o + bs.length ≤ 2 ^ s.cfg.aw - 1) ∧
    (s.status.bound = true → changesSource s o bs = false) ∧
    t = { s with src := s.src.writeList o bs } := by
  unfold hostFill at h
  split at h
  · cases h
  · next h1 =>
    split at h
    · cases h
    · next h2 =>
      cases h
      refine ⟨?_, ?_, rfl⟩
      · by_cases hb : bs = []
        · exact .inl hb
        · exact .inr (by simp only [hb, ne_eq, not_false_eq_true, true_and] at h1; omega)
      · intro hb; simpa [hb] using h2

/-- A fill that does not change the source below its true end leaves every byte there. -/
theorem read_fill_below {s : State} {o : Nat} {bs : List Byte} (hw : s.src.wf = true)
    (h : changesSource s o bs = false) {a : Nat} (ha : a < s.srcLen) :
    (s.src.writeList o bs).read a = s.src.read a := by
  by_cases hin : a < o ∨ o + bs.length ≤ a
  · exact Memory.read_writeList_other _ _ _ hin
  · have hr := Memory.read_writeList_at hw o bs (i := a - o) (by omega)
    rw [show o + (a - o) = a by omega] at hr
    rw [hr]
    have := List.any_eq_false.1 h (a - o) (List.mem_range.2 (by omega))
    rw [show o + (a - o) = a by omega] at this
    simpa [ha] using this

/-- A run of one step more. -/
theorem run_succ (M : Host.Core) (n : Nat) (s : M.State) : M.run (n + 1) s =
    match M.step s with
    | .next s' => M.run n s'
    | .fault r => .fault r
    | .refused r => .refused r := rfl

/-- A run goes on from the next state of its first step. -/
theorem run_next {n : Nat} {s t : State} (h : step s = .next t) :
    Sys2Proof.core.run (n + 1) s = Sys2Proof.core.run n t := by
  have := run_succ Sys2Proof.core n s
  rw [show Sys2Proof.core.step s = .next t from h] at this
  exact this

/-- A run stops at the fault of its first step. -/
theorem run_fault {n : Nat} {s : State} {r : Fault} (h : step s = .fault r) :
    Sys2Proof.core.run (n + 1) s = .fault r := by
  have := run_succ Sys2Proof.core n s
  rw [show Sys2Proof.core.step s = .fault r from h] at this
  exact this

/-- A run stops at the refusal of its first step. -/
theorem run_refused {n : Nat} {s : State} {r : Refusal} (h : step s = .refused r) :
    Sys2Proof.core.run (n + 1) s = .refused r := by
  have := run_succ Sys2Proof.core n s
  rw [show Sys2Proof.core.step s = .refused r from h] at this
  exact this

end Sys2Proof.Machine
end

