-- ==== Sys2Proof/Tests/Slice0.lean ====
section
/-! SUPPORT. Tests of the model. Expected results come from spec/95_test_vectors.md and from the encodings of spec/30_encoding.md; then one witness for every statement that has hypotheses. -/

namespace Sys2Proof.Tests

open Sys2Proof Sys2Proof.Machine

/-! ### Helpers -/

/-- A source image from offset 0. -/
def image (bs : List Byte) : Memory := Memory.writeList [] 0 bs

/-- A bound reader over a source, with no fault, right after its BIND.D. -/
def direct (bs : List Byte) : State :=
  { State.reset with
    src := image bs, srcLen := bs.length, status := { Status.zero with bound := true } }

/-- The parameters of the small-window vectors: W = 16. -/
def small : Config := { aw := 16, w := 16, aw_ge := by decide, w_ge := by decide }

/-- A buffered reader with W = 16 whose window holds the source from an offset on. -/
def buffered (bs : List Byte) (cursor wbase wend : Nat) : State :=
  { State.resetWith small with
    src := image bs, srcLen := bs.length, status := { Status.zero with bound := true, mode := true }
    cursor := cursor, wbase := wbase, wend := wend
    win := image ((bs.drop wbase).take (wend - wbase)) }

/-- The columns CURSOR, VALUE, LEN, STATUS, CAUSE of the vectors; empty where the machine stops. -/
def columns : Outcome → List Nat
  | .next t => [t.cursor, t.value.toNat, t.len.toNat, t.status.toByte.toNat, t.cause.code.toNat]
  | .fault _ => []
  | .refused _ => []

/-- The `ok` column of the vectors. -/
def oks : Outcome → List Bool
  | .next t => (responses t.io).map Response.ok
  | .fault _ => []
  | .refused _ => []

/-- WBASE, WEND, WIN and the source requests. -/
def hidden : Outcome → List Nat × Memory × List (Nat × Nat)
  | .next t => ([t.wbase, t.wend], t.win, requests t.io)
  | .fault _ => ([], [], [])
  | .refused _ => ([], [], [])

/-- The source `48 81 80` of 95_test_vectors.md section 3.3. -/
def v : State := direct [0x48, 0x81, 0x80]

/-- The state of V11 to V14: STATUS = 0x11, CAUSE = 2. -/
def vFault : State :=
  { v with status := { v.status with fault := true }, cause := .truncated, everFaulted := true }

/-- The state of V16 to V18. -/
def v16 : State :=
  { v with value := 200, len := 2, cursor := 2, status := { v.status with vvalid := true } }

/-- The source of P3 (95_test_vectors.md section 4). -/
def p3 : List Byte :=
  [0x00, 0x00, 0x81, 0x00, 0x00, 0x81, 0xFF, 0x00, 0x81, 0x7F, 0x7F, 0x7F, 0x7F, 0xFF, 0x7F] ++
  [0x7F, 0x7F, 0xFF, 0x81, 0x82, 0x83, 0x7F, 0x7F, 0x7F, 0x7F, 0x7F, 0xFF, 0xCD, 0x80]

/-! ### Well-formedness -/

/-- The one ill-formed term: the word of `fui1 0` is the sentinel's (30_encoding.md R97). -/
theorem test_wf_refuses_fui1_zero : Instr.wf (.fui1 0) = false := by decide
theorem test_wf_accepts_fui1_one : Instr.wf (.fui1 1) = true := by decide
theorem test_wf_accepts_sentinel : Instr.wf .sentinel = true := by decide

/-! ### Decoding: words written out from the encodings -/

/-- 30_encoding.md R104: `B`, `OP` of each code. -/
theorem test_decode_nop : decodeTableWord 8 0b000 = some .nop := by decide
theorem test_decode_decode : decodeTableWord 8 0b001 = some .decode := by decide
theorem test_decode_skip : decodeTableWord 8 0b010 = some .skip := by decide
theorem test_decode_bindD : decodeTableWord 8 0b011 = some .bindD := by decide
theorem test_decode_bindB : decodeTableWord 8 0b111 = some .bindB := by decide
theorem test_decode_reserved100 : decodeTableWord 8 0b100 = some .reserved100 := by decide
theorem test_decode_reserved101 : decodeTableWord 8 0b101 = some .reserved101 := by decide
theorem test_decode_reserved110 : decodeTableWord 8 0b110 = some .reserved110 := by decide
/-- 30_encoding.md R93: T in bit 7, P in bits 6..0, first byte lowest. -/
theorem test_decode_fui1 : decodeTableWord 8 0b11010110 = some (.fui1 0b1010110) := by decide
theorem test_decode_fui2 :
    decodeTableWord 16 0b1000000101001000 = some (.fui2 0b1001000 0b0000001) := by decide
theorem test_decode_fui3 : decodeTableWord 24 0xBD0440 = some (.fui3 0x40 0x04 0x3D) := by decide
theorem test_decode_fui4 :
    decodeTableWord 32 0x84030201 = some (.fui4 0x01 0x02 0x03 0x04) := by decide
theorem test_decode_fui5 :
    decodeTableWord 40 0x921A154F09 = some (.fui5 0x09 0x4F 0x15 0x1A 0x12) := by decide
theorem test_decode_fui6 :
    decodeTableWord 48 0x860504030201 = some (.fui6 0x01 0x02 0x03 0x04 0x05 0x06) := by decide
theorem test_decode_malformed :
    decodeTableWord 48 0x060504030201 = some (.malformed 0x01 0x02 0x03 0x04 0x05 0x06) := by decide
theorem test_decode_sentinel : decodeTableWord 8 0b10000000 = some .sentinel := by decide
/-- A byte that does not fit the command port (30_encoding.md R103), and a port given nothing. -/
theorem test_decode_refuses_nine_bits :
    decode .command [0x08] = .error .notThreeBits ∧ decode .command [] = .error .noCommand := by decide
/-- The encoder on the rows above. -/
theorem test_encode : encode .bindB = [0x07] ∧ encode (.fui2 0x48 0x01) = [0x48, 0x81] ∧
    encode (.fui5 0x09 0x4F 0x15 0x1A 0x12) = [0x09, 0x4F, 0x15, 0x1A, 0x92] ∧
    encode .sentinel = [0x80] := by decide

/-! ### The pure functions (95_test_vectors.md section 2) -/

theorem test_enc_boundaries :
    [enc 0, enc 127, enc 128, enc 16383, enc 16384, enc 2097151] =
      [some [0x80], some [0xFF], some [0x00, 0x81], some [0x7F, 0xFF], some [0x00, 0x00, 0x81],
        some [0x7F, 0x7F, 0xFF]] := by decide
theorem test_enc_long : enc 4886718345 = some [0x09, 0x4F, 0x15, 0x1A, 0x92] ∧
    enc 34359738368 = some [0x00, 0x00, 0x00, 0x00, 0x00, 0x81] ∧
    enc 4398046511103 = some [0x7F, 0x7F, 0x7F, 0x7F, 0x7F, 0xFF] := by decide
/-- The last line of the table: `Enc` is not defined at `2^42`. -/
theorem test_enc_undefined : encLen 4398046511104 = none ∧ enc 4398046511104 = none ∧
    encSeq [1, 4398046511104] = none := by decide
theorem test_encSeq : encSeq [1, 200] = some [0x81, 0x48, 0x81, 0x80] := by decide
theorem test_assemble8 :
    assemble8 [0x2C, 0x82, 0x85, 0x7F, 0x7F, 0xFF, 0x00, 0x00] = 0x0000FF7F7F85822C ∧
    assemble8 [0x40, 0x04, 0xBD, 0x80] = 0x0000000080BD0440 ∧ assemble8 [] = 0 := by decide
theorem test_word_primitives : ctz64 0x8080000000000000 = some 55 ∧ ctz64 0 = none ∧
    lowmask64 0x800000 = some 0xFFFFFF ∧ pext64 0x8148 0x7F7F = 200 := by decide
theorem test_masks : [1, 2, 3, 4, 5, 6].map (fun n => maskByLowest (0x80 <<< (8 * (n - 1)))) =
    [1, 2, 3, 4, 5, 6].map (fun n => some (maskByTable n)) := by decide
theorem test_decodeWord_lines :
    [decodeWord 0x80 1, decodeWord 0xFF 1, decodeWord 0x8148 2, decodeWord 0x817F 2,
     decodeWord 0xBD0440 3, decodeWord 0xFF7F7F7F 4] =
    [.ok 0 1, .ok 127 1, .ok 200 2, .ok 255 2, .ok 1000000 3, .ok 268435455 4] := by decide
theorem test_decodeWord_long :
    [decodeWord 0x921A154F09 5, decodeWord 0x860504030201 6, decodeWord 0xFF7F7F7F7F7F 6] =
    [.ok 4886718345 5, .ok 207509045505 6, .ok 4398046511103 6] := by decide
theorem test_bytes_after_the_terminator :
    [decodeWord 0x80814881 4, decodeWord 0xFFFFFFFFFFFFFF81 8, decodeWord 0xFFFF860504030201 8] =
    [.ok 1 1, .ok 1 1, .ok 207509045505 6] := by decide
theorem test_noncanonical_runs :
    [decodeWord 0x8000 2, decodeWord 0x807F 2, decodeWord 0x800000000000 6] =
    [.ok 0 2, .ok 127 2, .ok 0 6] := by decide
theorem test_malformed_lines :
    [skipWord 0x80000000000000 8, skipWord 0x8000000000000000 8, skipWord 0 8,
     skipWord 0x0080060504030201 7, skipWord 0x060504030201 6] =
      [.malformed .overlong, .malformed .overlong, .malformed .overlong, .malformed .overlong,
       .malformed .overlong] ∧
    [skipWord 0x0504030201 5, skipWord 0x0605 2, skipWord 0 0] =
      [.malformed .truncated, .malformed .truncated, .malformed .truncated] := by decide
theorem test_refDecode : refDecode [0x09, 0x4F, 0x15, 0x1A, 0x92] = .ok 4886718345 5 ∧
    refDecode [0x01, 0x02, 0x03, 0x04, 0x05, 0x06, 0x80] = .malformed .overlong ∧
    refDecode [0x05, 0x06] = .malformed .truncated := by decide

/-! ### Single commands (95_test_vectors.md section 3.3) -/

theorem test_V1_decode : columns (exec .decode v) = [2, 200, 2, 0x09, 0] ∧
    oks (exec .decode v) = [true] := by decide
theorem test_V2_skip : columns (exec .skip v) = [2, 0, 2, 0x01, 0] := by decide
theorem test_V3_sentinel : columns (exec .decode { v with cursor := 2 }) = [3, 0, 1, 0x0D, 0] := by
  decide
theorem test_V4_skip_sentinel : columns (exec .skip { v with cursor := 2 }) = [3, 0, 1, 0x01, 0] := by
  decide
theorem test_V5_truncated : columns (exec .decode { v with cursor := 3 }) = [3, 0, 0, 0x11, 2] ∧
    oks (exec .decode { v with cursor := 3 }) = [false] := by decide
theorem test_V7_nop : columns (exec .nop v) = [0, 0, 0, 0x01, 0] ∧ oks (exec .nop v) = [true] := by
  decide
theorem test_V8_reserved101 : columns (exec .reserved101 v) = [0, 0, 0, 0x11, 4] ∧
    oks (exec .reserved101 v) = [false] := by decide
theorem test_V9_unbound : columns (exec .decode { v with status := Status.zero }) = [0, 0, 0, 0x10, 3] := by
  decide
theorem test_V10_reserved110 : columns (exec .reserved110 { v with status := Status.zero }) =
    [0, 0, 0, 0x10, 4] := by decide
theorem test_V12_reserved100 : columns (exec .reserved100 vFault) = [0, 0, 0, 0x11, 2] := by decide
theorem test_V13_nop_while_faulted : columns (exec .nop vFault) = [0, 0, 0, 0x11, 2] ∧
    oks (exec .nop vFault) = [true] := by decide
theorem test_V14_bindD : columns (exec .bindD vFault) = [0, 0, 0, 0x01, 0] := by decide
theorem test_V15_bindB : columns (exec .bindB vFault) = [0, 0, 0, 0x03, 0] ∧
    hidden (exec .bindB vFault) = ([0, 3], image [0x48, 0x81, 0x80], [(0, 3)]) := by decide
theorem test_V16_srcLen_write : columns (step (v16.present (.writeReg 1 3))) = [2, 200, 2, 0x08, 0] := by
  decide
theorem test_V17_cursor_write : columns (step (v16.present (.writeReg 0 0))) = [0, 200, 2, 0x09, 0] := by
  decide
theorem test_V18_readonly_write :
    columns (step (v16.present (.writeReg 2 5))) = [2, 200, 2, 0x09, 0] := by decide

/-! ### Runs as instructions -/

theorem test_fui1 : columns (exec (.fui1 1) { v with cursor := 1 }) = [2, 1, 1, 0x09, 0] := by decide
theorem test_fui2 : columns (exec (.fui2 0x48 0x01) v) = [2, 200, 2, 0x09, 0] := by decide
theorem test_fui3 : columns (exec (.fui3 0x40 0x04 0x3D) (direct [0x40, 0x04, 0xBD])) =
    [3, 1000000, 3, 0x09, 0] := by decide
theorem test_fui4 : columns (exec (.fui4 0x7F 0x7F 0x7F 0x7F) (direct [0x7F, 0x7F, 0x7F, 0xFF])) =
    [4, 268435455, 4, 0x09, 0] := by decide
theorem test_fui5 :
    columns (exec (.fui5 0x09 0x4F 0x15 0x1A 0x12) (direct [0x09, 0x4F, 0x15, 0x1A, 0x92])) =
      [5, 4886718345, 5, 0x09, 0] := by decide
theorem test_fui6 :
    columns (exec (.fui6 1 2 3 4 5 6) (direct [0x01, 0x02, 0x03, 0x04, 0x05, 0x86])) =
      [6, 207509045505, 6, 0x09, 0] := by decide
theorem test_malformed_overlong :
    columns (exec (.malformed 1 2 3 4 5 6) (direct [0x01, 0x02, 0x03, 0x04, 0x05, 0x06])) =
      [0, 0, 0, 0x11, 1] := by decide
theorem test_malformed_truncated :
    columns (exec (.malformed 1 2 3 4 5 0) (direct [0x01, 0x02, 0x03, 0x04, 0x05])) =
      [0, 0, 0, 0x11, 2] := by decide
theorem test_sentinel : columns (exec .sentinel { v with cursor := 2 }) = [3, 0, 1, 0x0D, 0] := by decide

/-! ### The window (95_test_vectors.md sections 3.1, 3.2, 3.4 and P3) -/

theorem test_needRefresh :
    [(0, 0, 16), (8, 0, 16), (9, 0, 16), (16, 0, 16), (20, 0, 16), (3, 9, 25), (9, 9, 25),
      (4, 4, 4)].map (fun x : Nat × Nat × Nat => needRefresh (buffered p3 x.1 x.2.1 x.2.2)) =
    [false, false, true, true, true, true, false, true] := by decide
/-- P3, the fifth DECODE: the refresh `SrcRead(9, 16)`. -/
theorem test_P3_refresh : columns (exec .decode (buffered p3 9 0 16)) = [14, 34359738367, 5, 0x0B, 0] ∧
    hidden (exec .decode (buffered p3 9 0 16)) = ([9, 25], image ((p3.drop 9).take 16), [(9, 16)]) := by
  decide
/-- P3, the tenth DECODE: exactly 8 bytes ahead, no refresh. -/
theorem test_P3_no_refresh :
    columns (exec .decode (buffered p3 21 18 29)) = [27, 4398046511103, 6, 0x0B, 0] ∧
    (hidden (exec .decode (buffered p3 21 18 29))).2.2 = [] := by decide
/-- P1b, the last DECODE: the cursor at the true end, no request, the window empty there. -/
theorem test_P1b_refresh_at_the_end :
    (hidden (exec .decode (buffered p3 29 28 29))).1 = [29, 29] ∧
    (hidden (exec .decode (buffered p3 29 28 29))).2.2 = [] ∧
    columns (exec .decode (buffered p3 29 28 29)) = [29, 0, 0, 0x13, 2] := by decide
/-- 95_test_vectors.md section 3.4: the only request is `SrcRead(0, 6)`. -/
theorem test_no_padding :
    (hidden (exec .decode (direct [0x7F, 0x7F, 0x7F, 0x7F, 0x7F, 0xFF]))).2.2 = [(0, 6)] := by decide

/-! ### Steps -/

theorem test_reset_idles : step State.reset = .next State.reset := by rfl
/-- 70_reset_and_hazards.md R220: a BIND.B cut short by rst leaves the reset state and posts no
response; its one source request has appeared or not. -/
theorem test_rst_during_a_command :
    columns (step (v16.present (.rstDuring 0b111 1))) = [0, 0, 0, 0x00, 0] ∧
    oks (step (v16.present (.rstDuring 0b111 1))) = [] ∧
    hidden (step (v16.present (.rstDuring 0b111 1))) = ([0, 0], [], [(2, 1)]) ∧
    hidden (step (v16.present (.rstDuring 0b111 0))) = ([0, 0], [], []) := by decide
/-- P1a from its second DECODE on, with READ_SEQ (41_reader_ops.md R166). -/
theorem test_read_seq :
    (readSeq 3 (direct [0x81, 0x48, 0x81, 0x80])).map (fun r => (r.values, r.decodes, r.last.cursor)) =
      some ([1, 200], 3, 4) := by decide
/-- The word of a command, and of a run, runs as the first instruction after reset. -/
theorem test_withFetchWord_command :
    columns (step (State.reset.withFetchWord 8 0b101)) = [0, 0, 0, 0x10, 4] := by decide
theorem test_withFetchWord_run :
    columns (step (State.reset.withFetchWord 24 0xBD0440)) = [3, 1000000, 3, 0x09, 0] := by decide
theorem test_withFetchWord_malformed :
    columns (step (State.reset.withFetchWord 48 0x060504030201)) = [0, 0, 0, 0x11, 1] := by decide
theorem test_fill_past_the_offset_space :
    hostFill 0xFFFF [0x80] (State.resetWith small) = .fault .noSuchOffset := by rfl
theorem test_fill_of_a_bound_source :
    hostFill 0 [0x80] v = .refused .sourceChangedWhileBound := by rfl
/-- Writing what is there already is no change (20_memory.md R71). -/
theorem test_fill_with_equal_bytes : hostFill 0 [0x48, 0x81] v = .next v := by rfl

/-! ### Witnesses: for each statement with hypotheses, a state and operands that meet them together -/

theorem v_legal : v.Legal := State.legal_of_check (by decide)
theorem v_ready : v.Ready := ⟨by decide, by decide⟩
theorem vFault_legal : vFault.Legal := State.legal_of_check (by decide)

/-- A buffered reader that needs no refresh at the cursor (offset 8 of P3, exactly 8 bytes ahead). -/
def b : State := buffered p3 8 0 16
theorem b_legal : b.Legal := State.legal_of_check (by decide)
theorem b_ready : b.Ready := ⟨by decide, by decide⟩

/-- A buffered reader that needs one (offset 9 of P3). -/
def r : State := buffered p3 9 0 16
theorem r_legal : r.Legal := State.legal_of_check (by decide)
theorem r_ready : r.Ready := ⟨by decide, by decide⟩
theorem r_refreshes : r.status.mode = true ∧ needRefresh r = true ∧ b.status.mode = true ∧
    needRefresh b = false := by decide

/-- A direct reader over six bytes without a terminator, and over five. -/
def six : State := direct [0x01, 0x02, 0x03, 0x04, 0x05, 0x06]
def five : State := direct [0x01, 0x02, 0x03, 0x04, 0x05]
theorem six_legal : six.Legal ∧ six.Ready := ⟨State.legal_of_check (by decide), by decide, by decide⟩
theorem five_legal : five.Legal ∧ five.Ready := ⟨State.legal_of_check (by decide), by decide, by decide⟩

/-- A reader whose cursor stands at the true end. -/
def atEnd : State := { v with cursor := 3 }
theorem atEnd_legal : atEnd.Legal ∧ atEnd.Ready := ⟨State.legal_of_check (by decide), by decide, by decide⟩

theorem witness_ResetLeavesEveryRegisterZero : State.reset = State.resetWith Config.default := rfl
theorem witness_RstPutsEveryRegisterToItsResetValue : (v.present .rst).pending = .rst :: [] ∧
    HostAction.IsReset .rst ∧ (r.present (.rstDuring 0b001 1)).pending = .rstDuring 0b001 1 :: [] ∧
    HostAction.IsReset (.rstDuring 0b001 1) ∧
    ∃ u, exec (decodeCommand 0b001) { r with pending := [], io := [] } = .next u :=
  ⟨rfl, trivial, rfl, trivial, _, rfl⟩
theorem witness_StepRunsTheCommandOnThePort :
    (v.present (.command 0b101)).pending = .command 0b101 :: [] ∧ v.pending = [] := by decide
theorem witness_DecodeStepRunsTheRunAtTheCursor : (v.present (.command 0b001)).Legal ∧
    (v.present (.command 0b001)).Ready ∧
    decode .stream (v.present (.command 0b001)).bytesAhead = .ok (.fui2 0x48 0x01, [0x80]) :=
  ⟨State.legal_of_check (by decide), ⟨by decide, by decide⟩, by rfl⟩
theorem witness_DecodeStepRunsTheRunAtTheCursor_malformed : (five.present (.command 0b001)).Legal ∧
    (five.present (.command 0b001)).Ready ∧
    decode .stream (five.present (.command 0b001)).bytesAhead = .ok (.malformed 1 2 3 4 5 0, []) :=
  ⟨State.legal_of_check (by decide), ⟨by decide, by decide⟩, by rfl⟩
theorem witness_DecodeOfEncodeGivesTheInstructionBack :
    (Instr.fui6 0x7F 0 1 2 3 0x7F).wf = true ∧ Instr.bindB.wf = true ∧ (Instr.fui1 1).wf = true := by decide
theorem witness_EncodeOfDecodeGivesTheBytesBack :
    decode .stream [0x48, 0x81] = .ok (.fui2 0x48 0x01, []) ∧
    decode .command [0x07] = .ok (.bindB, []) ∧ (Instr.fui2 0x48 0x01).size ≤ [0x48, 0x81].length :=
  ⟨by rfl, by rfl, by decide⟩
theorem witness_RunFormsAreDisjointAndCoverEveryWord :
    (⟨2, 0x8080, 0x8000⟩ : FormRow) ∈ formRows ∧ (0x8148 : Word) &&& 0x8080 = 0x8000 ∧
    (0xFFFF8148 : Word) &&& (0x8080 ||| maskByTable 2) = 0x8148 &&& (0x8080 ||| maskByTable 2) ∧
    (⟨0, 0x808080808080, 0⟩ : FormRow) ∈ formRows ∧
    (0x80060504030201 : Word) &&& 0x808080808080 = 0 := by decide
theorem witness_WordPrimitivesMeetTheirDefinitions : ctz64 0x8000000000000000 = some 63 ∧
    ctz64 1 = some 0 ∧
    0 < ((List.range 64).filter fun i => (0x7F7F : Word).getLsbD i).length := by decide
theorem witness_AssemblyIsLittleEndian : [0x48, 0x81, 0x80, 0, 0, 0, 0, (0xFF : Byte)].length ≤ 8 := by decide
theorem witness_TerminatorPositionGivesTheLength : ctz64 (highBits 0x80) = some 7 ∧
    ctz64 (highBits 0x860504030201) = some 47 ∧ ctz64 (highBits 0x87060504030201) = some 55 ∧
    ctz64 (highBits 0x8000000000000000) = some 63 ∧ highBits 0x0504030201 = 0 := by decide
theorem witness_MaskFormulationsAgree : findTerm 0x80 1 = .ok 1 ∧ findTerm 0x860504030201 6 = .ok 6 := by
  decide
theorem witness_ExtractionIsTheSumOfPayloadGroups : 1 ≤ 6 ∧ 6 ≤ 6 := by decide
theorem witness_ThreeDecodeStrategiesAgree : p3.length = 29 ∧ (p3.take 8).length ≤ 8 := by decide
theorem witness_DecodedValueFitsItsLength : decodeWord 0x807F 2 = .ok 127 2 ∧
    decodeWord 0xFF7F7F7F7F7F 6 = .ok 4398046511103 6 ∧
    decodeWord 0x800000000000 6 = .ok 0 6 ∧
    ∀ i : Fin 6, (0x800000000000 : Word).extractLsb' (8 * i) 7 = 0 := by decide
theorem witness_DecodeOfReferenceEncodingIsTheValue : (4398046511103 : Nat) < 2 ^ 42 ∧
    enc 4398046511103 = some [0x7F, 0x7F, 0x7F, 0x7F, 0x7F, 0xFF] ∧
    [0x7F, 0x7F, 0x7F, 0x7F, 0x7F, 0xFF] <+: [0x7F, 0x7F, 0x7F, 0x7F, 0x7F, 0xFF, 0xFF, (0xFF : Byte)] :=
  ⟨by decide, by decide, ⟨_, rfl⟩⟩
theorem witness_ReferenceLengthIsMonotone : 127 ≤ 128 ∧ 128 < 2 ^ 35 ∧ encLen 127 = some 1 ∧
    encLen 128 = some 2 ∧ encLen (2 ^ 42 - 1) = some 6 ∧ encLen (2 ^ 42) = none ∧
    encLen (2 ^ 35 - 1) = some 5 := by decide
theorem witness_DecodeDependsOnLowLanesOnly :
    (∀ i : Fin 8, 6 ≤ i.val → (0x860504030201 : Word).extractLsb' (8 * i) 8 = 0) ∧
    decodeWord 0x8148 2 = .ok 200 2 ∧
    (∀ i : Fin 2, (0x8148 : Word).extractLsb' (8 * i) 8 =
      (0xFFFF8148 : Word).extractLsb' (8 * i) 8) := by decide
theorem witness_EveryRunDecodesToTheSumOfItsGroups :
    ([0, 0, 0, 0, 0] : List Payload).length + 1 ≤ 6 ∧
    [0, 0, 0, 0, 0].map contByte ++ [termByte 0x7F] ++ [0xFF, 0x00] =
      [0x00, 0x00, 0x00, 0x00, 0x00, 0xFF, 0xFF, 0x00] := by decide
theorem witness_BindDirectConstructsTheReader :
    atEnd.srcLen ≤ atEnd.cursor ∧ ∃ t, exec .bindD atEnd = .next t := ⟨by decide, _, rfl⟩
theorem witness_BindBufferedConstructsTheReaderAndLoadsTheWindow :
    v.win.wf = true ∧ v.cursor < v.srcLen ∧ atEnd.win.wf = true ∧ atEnd.srcLen ≤ atEnd.cursor := by decide
theorem witness_DecodeDeliversTheRunAtTheCursor :
    (v.Legal ∧ v.Ready) ∧ (b.Legal ∧ b.Ready) ∧ (r.Legal ∧ r.Ready) ∧ (atEnd.Legal ∧ atEnd.Ready) :=
  ⟨⟨v_legal, v_ready⟩, ⟨b_legal, b_ready⟩, ⟨r_legal, r_ready⟩, atEnd_legal⟩
theorem witness_SkipAdvancesPastTheRunAtTheCursor :
    (v.Legal ∧ v.Ready) ∧ (b.Legal ∧ b.Ready) ∧ (r.Legal ∧ r.Ready) ∧ (six.Legal ∧ six.Ready) :=
  ⟨⟨v_legal, v_ready⟩, ⟨b_legal, b_ready⟩, ⟨r_legal, r_ready⟩, six_legal⟩
theorem witness_SkipLeavesTheCursorDecodeWouldLeave :
    (∃ t, exec .decode r = .next t) ∧ ∃ u, exec .skip r = .next u := ⟨⟨_, rfl⟩, _, rfl⟩
theorem witness_ReservedCodesRaiseIllegalCommand : v.status.fault = false := by decide
theorem witness_ShortRunsDeliverTheirValue :
    (v.Legal ∧ v.Ready) ∧ 3 ≤ v.srcLen - v.cursor ∧
    State.Legal { v with cursor := 2 } ∧ v.srcLen - 2 = 1 :=
  ⟨⟨v_legal, v_ready⟩, by decide, State.legal_of_check (by decide), by decide⟩
theorem witness_LongRunsDeliverTheirValue :
    (six.Legal ∧ six.Ready) ∧ six.srcLen - six.cursor = 6 ∧
    (five.Legal ∧ five.Ready) ∧ five.srcLen - five.cursor = 5 :=
  ⟨six_legal, by decide, five_legal, by decide⟩
theorem witness_MalformedRunRaisesTheCauseAvailDecides :
    (six.Legal ∧ six.Ready) ∧ 6 ≤ six.srcLen - six.cursor ∧
    (five.Legal ∧ five.Ready) ∧ ¬ 6 ≤ five.srcLen - five.cursor :=
  ⟨six_legal, by decide, five_legal, by decide⟩
theorem witness_RunPastTheTrueEndIsTruncated :
    (five.Legal ∧ five.Ready) ∧ five.srcLen - five.cursor < (Instr.fui6 1 2 3 4 5 6).size ∧
    (atEnd.Legal ∧ atEnd.Ready) ∧ atEnd.srcLen - atEnd.cursor < Instr.sentinel.size :=
  ⟨five_legal, by decide, atEnd_legal, by decide⟩
theorem witness_EveryRunFetchesAsDecodeDoes : (Instr.fui5 0x7F 0x7F 0x7F 0x7F 0x7F).level = .stream ∧
    (∃ t, exec (.fui5 0x7F 0x7F 0x7F 0x7F 0x7F) r = .next t) ∧ ∃ u, exec .decode r = .next u :=
  ⟨rfl, ⟨_, rfl⟩, _, rfl⟩
theorem witness_FetchReturnsTheBytesAtTheCursor :
    (r.Legal ∧ r.status.bound = true) ∧ (v.Legal ∧ v.status.bound = true) :=
  ⟨⟨r_legal, by decide⟩, v_legal, by decide⟩
theorem witness_BufferedFetchEqualsDirectFetch :
    r.status.bound = true ∧ r.win.wf = true ∧ r.WindowOk ∧ b.WindowOk :=
  ⟨by decide, by decide, r_legal.window (by decide) (by decide), b_legal.window (by decide) (by decide)⟩
theorem witness_RefreshIsNeededOutsideTheWindow : needRefresh b = false ∧ needRefresh r = true := by decide
theorem witness_RefillCopiesTheChunkAtTheCursor :
    r.win.wf = true ∧ (Instr.decode = .decode ∨ Instr.decode = .skip) ∧ r.Ready ∧
    r.status.mode = true ∧ needRefresh r = true ∧ r.cursor < r.srcLen ∧
    (∃ t, exec .decode r = .next t) ∧
    needRefresh (buffered p3 29 28 29) = true ∧ (buffered p3 29 28 29).srcLen ≤ 29 :=
  ⟨by decide, .inl rfl, r_ready, by decide, by decide, by decide, ⟨_, rfl⟩, by decide, by decide⟩
theorem witness_OnlyARefillOrResetChangesTheWindow :
    (∃ t, exec .decode b = .next t) ∧ (∃ t, step (r.present (.command 0b001)) = .next t) ∧
    ∃ t, step (v.present .rst) = .next t := ⟨⟨_, rfl⟩, ⟨_, rfl⟩, _, rfl⟩
theorem witness_CommandsIssueExactlyTheirRequestsAndHints : Instr.skip.level = .command ∧
    (∃ t, exec .skip v = .next t) ∧ (∃ t, exec .skip b = .next t) ∧ ∃ t, exec .skip r = .next t :=
  ⟨rfl, ⟨_, rfl⟩, ⟨_, rfl⟩, _, rfl⟩
/-- A source that differs from `v`'s at the true end only. -/
theorem witness_BytesPastTheTrueEndAreNeverRead :
    (∀ o, o < v.srcLen → (image [0x48, 0x81, 0x80, 0xFF]).read o = v.src.read o) ∧
    (image [0x48, 0x81, 0x80, 0xFF]).read 3 ≠ v.src.read 3 ∧ ∃ t, exec .decode v = .next t := by
  refine ⟨fun o ho => ?_, by decide, _, rfl⟩
  have : ∀ o : Fin 3, (image [0x48, 0x81, 0x80, 0xFF]).read o = v.src.read o := by decide
  exact this ⟨o, ho⟩
theorem witness_NoInstructionWritesTheSource : ∃ t, exec .bindB v = .next t := ⟨_, rfl⟩
theorem witness_LatchedFaultRefusesCommands : vFault.status.fault = true ∧
    Instr.decode ≠ .nop ∧ Instr.decode ≠ .bindD ∧ Instr.decode ≠ .bindB ∧
    ∃ t, hostWrite 0 7 vFault = .next t := ⟨by decide, by decide, by decide, by decide, _, rfl⟩
theorem witness_UnboundReaderRaisesNotBound : (Instr.fui1 5).level = .stream ∧
    State.reset.status.bound = false ∧ State.reset.status.fault = false := by decide
theorem witness_FaultsArePrecise : ∃ t, exec .decode six = .next t ∧ six.status.fault = false ∧
    t.status.fault = true := ⟨_, rfl, by decide, by decide⟩
theorem witness_CausesFollowTheCheckOrder :
    (∃ t, exec .reserved100 v = .next t) ∧ (∃ t, exec .skip vFault = .next t) ∧
    (∃ t, exec .decode State.reset = .next t) ∧ (∃ t, exec .decode five = .next t) ∧
    ∃ t, exec .nop vFault = .next t := ⟨⟨_, rfl⟩, ⟨_, rfl⟩, ⟨_, rfl⟩, ⟨_, rfl⟩, _, rfl⟩
theorem witness_MalformedExactlyWithoutATerminator :
    ((six.Legal ∧ six.Ready) ∧ ∃ t, exec .decode six = .next t ∧ t.cause = .overlong) ∧
    ((five.Legal ∧ five.Ready) ∧ ∃ t, exec .skip five = .next t ∧ t.cause = .truncated) ∧
    ((v.Legal ∧ v.Ready) ∧ ∃ t, exec .skip v = .next t ∧ t.status.fault = false) :=
  ⟨⟨six_legal, _, rfl, by decide⟩, ⟨five_legal, _, rfl, by decide⟩, ⟨v_legal, v_ready⟩, _, rfl, by decide⟩
theorem witness_OnlyBindAndResetClearAFault : vFault.status.fault = true ∧
    (∃ t, step (vFault.present (.command 0b011)) = .next t) ∧
    (∃ t, step (vFault.present .rst) = .next t) ∧
    (∃ t, step (vFault.present (.rstDuring 0b010 0)) = .next t) ∧
    ∃ t, step (vFault.present (.writeReg 0 7)) = .next t :=
  ⟨by decide, ⟨_, rfl⟩, ⟨_, rfl⟩, ⟨_, rfl⟩, _, rfl⟩
theorem witness_EveryCommandPostsOneResponse :
    (∃ t, exec .reserved110 vFault = .next t) ∧ ∃ t, exec .bindB r = .next t := ⟨⟨_, rfl⟩, _, rfl⟩
theorem witness_RegisterReadsReturnTheTable : (v16.present (.readReg 4)).pending = .readReg 4 :: [] := rfl
theorem witness_RegisterWritesChangeWhatTheTableSays :
    (v16.present (.writeReg 1 3)).pending = .writeReg 1 3 :: [] := rfl
/-- The last byte of the source's offset space: `2^16 - 2` (20_memory.md R60). -/
theorem witness_FillWritesTheSourceWhileUnbound :
    ((State.resetWith small).present (.fill 0xFFFE [0x80])).src.wf = true ∧
    (State.resetWith small).status.bound = false ∧ 0xFFFE + [(0x80 : Byte)].length ≤ 2 ^ small.aw - 1 := by
  decide
theorem witness_ChangeOfABoundSourceIsRefused : v.status.bound = true ∧ 2 + 1 ≤ 2 ^ v.cfg.aw - 1 ∧
    2 + 0 < v.srcLen ∧ [(0xFF : Byte)].getD 0 0 ≠ v.src.read (2 + 0) := by decide
theorem witness_CursorMovesAsTheTableSays :
    (∃ t, step (v.present (.command 0b001)) = .next t ∧ t.status.fault = false) ∧
    (∃ t, step (atEnd.present (.command 0b010)) = .next t ∧ t.status.fault = true) ∧
    ∃ t, step (v.present (.writeReg 0 2)) = .next t :=
  ⟨⟨_, rfl, by decide⟩, ⟨_, rfl, by decide⟩, _, rfl⟩
/-- The run ends exactly at the true end. -/
theorem witness_SuccessNeverPassesTheTrueEnd : State.Legal { v with cursor := 2 } ∧
    ∃ t, exec .decode { v with cursor := 2 } = .next t ∧ t.status.fault = false ∧ t.cursor = v.srcLen :=
  ⟨State.legal_of_check (by decide), _, rfl, by decide, by decide⟩
theorem witness_RegistersChangeOnlyByTheirWriters :
    (∃ t, step (v.present (.command 0b001)) = .next t ∧ t.value ≠ v.value) ∧
    ∃ t, step (v.present (.writeReg 1 2)) = .next t ∧ t.srcLen ≠ v.srcLen :=
  ⟨⟨_, rfl, by decide⟩, _, rfl, by decide⟩
theorem witness_EveryStepKeepsALegalState :
    (r.present (.command 0b001)).Legal ∧ ∃ t, step (r.present (.command 0b001)) = .next t :=
  ⟨State.legal_of_check (by decide), _, rfl⟩
/-- A direct and a buffered reader over P3, in scripts that differ in the form of BIND. -/
theorem witness_ReaderFormIsInvisibleToEveryStep :
    State.Legal { r with pending := [.command 0b001, .command 0b111] } ∧
    State.Legal { r with
      status := { r.status with mode := false }, wbase := 0, wend := 0, win := []
      pending := [.command 0b001, .command 0b011] } ∧
    Twins { r with pending := [.command 0b001, .command 0b111] }
      { r with
        status := { r.status with mode := false }, wbase := 0, wend := 0, win := []
        pending := [.command 0b001, .command 0b011] } :=
  ⟨State.legal_of_check (by decide), State.legal_of_check (by decide),
    ⟨rfl, by decide, rfl, rfl, by decide⟩⟩
theorem witness_BufferedAndDirectRunsAreIndistinguishable : (image p3).wf = true ∧
    ∀ o, 2 ^ small.aw - 1 ≤ o → (image p3).read o = Memory.unlisted :=
  ⟨by decide, fun _ ho => Memory.read_above (n := 2 ^ small.aw - 1) (by decide) ho⟩
theorem witness_ReadSeqYieldsTheEncodedSequence :
    (direct [0x81, 0x48, 0x81, 0x80]).Legal ∧ (direct [0x81, 0x48, 0x81, 0x80]).Ready ∧
    (∀ x, x ∈ [1, 200] → 1 ≤ x ∧ x < 2 ^ 42) ∧ encSeq [1, 200] = some [0x81, 0x48, 0x81, 0x80] ∧
    (direct [0x81, 0x48, 0x81, 0x80]).cursor + 4 ≤ (direct [0x81, 0x48, 0x81, 0x80]).srcLen ∧
    (direct [0x81, 0x48, 0x81, 0x80]).src.readList 0 4 = [0x81, 0x48, 0x81, 0x80] :=
  ⟨State.legal_of_check (by decide), ⟨by decide, by decide⟩, by decide, by decide, by decide, by decide⟩
theorem witness_ReadSeqIsOverBeforeTheSourceIs :
    (r.Legal ∧ r.Ready ∧ r.cursor ≤ r.srcLen) ∧ (atEnd.Legal ∧ atEnd.Ready ∧ atEnd.cursor ≤ atEnd.srcLen) :=
  ⟨⟨r_legal, r_ready, by decide⟩, atEnd_legal.1, atEnd_legal.2, by decide⟩

end Sys2Proof.Tests
end

/-! PROOF. The word primitives of 00_scope.md R10: `pext64` is the packing of the selected bits. -/

namespace Sys2Proof.Machine

/-- The number whose binary digits are `bits`, lowest first. -/
def packBits (bits : List Bool) : Nat := bits.foldr Nat.bit 0

@[simp] theorem packBits_nil : packBits [] = 0 := rfl

@[simp] theorem packBits_cons (b : Bool) (bits : List Bool) :
    packBits (b :: bits) = Nat.bit b (packBits bits) := rfl

theorem packBits_lt_two_pow_length (bits : List Bool) : packBits bits < 2 ^ bits.length := by
  induction bits with
  | nil => simp
  | cons b bits ih => rwa [packBits_cons, List.length_cons, Nat.bit_lt_two_pow_succ_iff]

theorem testBit_packBits (bits : List Bool) (j : Nat) :
    (packBits bits).testBit j = bits.getD j false := by
  induction bits generalizing j with
  | nil => simp
  | cons b bits ih =>
    cases j with
    | zero => rw [packBits_cons, Nat.testBit_bit_zero, List.getD_cons_zero]
    | succ j => rw [packBits_cons, Nat.testBit_bit_succ, List.getD_cons_succ, ih]

/-- `pext64` packs the bits of the word at the mask's set bits: the fold skips exactly the indices
that the filter drops. -/
theorem pext64_eq_packBits (x m : Word) :
    pext64 x m =
      packBits (((List.range 64).filter fun i => m.getLsbD i).map fun i => x.getLsbD i) := by
  simp only [pext64, packBits, List.foldr_map, List.foldr_filter, Nat.bit_val, Nat.add_comm]

/-- `lowmask64` of a nonzero word is the low bits up to its lowest set bit. -/
theorem lowmask64_of_ctz64 {x : Word} {p : Nat} (h : ctz64 x = some p) :
    lowmask64 x = some (lowBits p) := by
  rw [lowmask64, h, Option.map_some]

/-- Settles O9: the lowest set bit by `ctz64_eq_some_iff`, the mask by `getLsbD_lowBits`, and the
packing by `pext64_eq_packBits`. -/
theorem wordPrimitivesMeetTheirDefinitions : Obligations.WordPrimitivesMeetTheirDefinitions := by
  refine ⟨fun x => ⟨ctz64_eq_none_iff x, fun p hp => ?_⟩, ?_⟩
  · obtain ⟨hlt, hset, hlow⟩ := (ctz64_eq_some_iff x p).1 hp
    exact ⟨hlt, hset, hlow, lowBits p, lowmask64_of_ctz64 hp, fun _ hi => getLsbD_lowBits hi⟩
  · rintro x m idx rfl
    rw [pext64_eq_packBits]
    constructor
    · simpa only [List.length_map] using packBits_lt_two_pow_length
        (((List.range 64).filter fun i => m.getLsbD i).map fun i => x.getLsbD i)
    · intro j hj
      rw [testBit_packBits, List.getD_eq_getElem _ _ (by rwa [List.length_map]),
        List.getElem_map, List.getD_eq_getElem _ _ hj]

end Sys2Proof.Machine

/-! PROOF. The fetched pair (41_reader_ops.md R156): how many lanes are valid, and that a terminator
search stays inside them. -/

namespace Sys2Proof.Machine

/-- A terminator search that answers has found a high bit in the last byte of its run. -/
theorem exists_highBit_of_findTerm_ok {w : Word} {avail len : Nat} (h : findTerm w avail = .ok len) :
    ∃ p, w.getLsbD p = true ∧ len = p / 8 + 1 := by
  unfold findTerm at h
  split at h
  · next p hp =>
    split at h
    · cases h
      have hbit := ((ctz64_eq_some_iff _ p).1 hp).2.1
      rw [getLsbD_highBits, Bool.and_eq_true] at hbit
      exact ⟨p, hbit.2, rfl⟩
    · cases h
  · split at h <;> cases h

/-- Lanes above the assembled bytes are zero, so no run ends there. -/
theorem findTerm_assemble8_le_length {bs : List Byte} {avail len : Nat}
    (h : findTerm (assemble8 bs) avail = .ok len) : len ≤ bs.length := by
  obtain ⟨p, hp, rfl⟩ := exists_highBit_of_findTerm_ok h
  by_contra hlen
  rw [getLsbD_assemble8, List.getD_eq_default _ _ (by omega)] at hp
  simp at hp

/-- A fetched word is assembled from as many bytes as are available, in either form. -/
theorem fetch8_word_eq_assemble8 (s : State) :
    ∃ bs, (fetch8 s).word = assemble8 bs ∧ bs.length = (fetch8 s).avail := by
  unfold fetch8
  split
  · exact ⟨_, rfl, Memory.length_readList ..⟩
  · exact ⟨_, rfl, Memory.length_readList ..⟩

theorem refill_wbase (s : State) : (refill s).wbase = min s.cursor s.srcLen := by
  rcases Nat.lt_or_ge s.cursor s.srcLen with h | h
  · rw [refill_of_lt h, Nat.min_eq_left h.le]
  · rw [refill_of_le h, Nat.min_eq_right h]

theorem refill_wend (s : State) : (refill s).wend = min (s.cursor + s.cfg.w) s.srcLen := by
  rcases Nat.lt_or_ge s.cursor s.srcLen with h | h
  · rw [refill_of_lt h]; show s.cursor + min s.cfg.w (s.srcLen - s.cursor) = _; omega
  · rw [refill_of_le h]; show s.srcLen = _; omega

/-- No fetch of a reader that keeps its window invariant reaches past the true end. -/
theorem fetch8_avail_le {s : State} (hw : s.WindowClaim) (hb : s.status.bound = true) :
    (fetch8 s).avail ≤ s.srcLen - s.cursor := by
  unfold fetch8
  split
  · next hm =>
    have hend := (hw hb hm).end_le_len
    simp only [fetch8Buffered, prefetchHint_wend, prefetchHint_cursor]
    cases needRefresh s
    · simp only [Bool.false_eq_true, if_false]; omega
    · simp only [if_true, refill_wend, refill_cursor]; omega
  · rw [fetch8Direct_eq, bytesAhead_length]
    exact Nat.min_le_right ..

/-- A run that a fetch finds lies within the available bytes, and these within the source. -/
theorem fetch8_found_le {s : State} (hw : s.WindowClaim) (hb : s.status.bound = true) {n : Nat}
    (h : findTerm (fetch8 s).word (fetch8 s).avail = .ok n) :
    n ≤ (fetch8 s).avail ∧ (fetch8 s).avail ≤ s.srcLen - s.cursor := by
  obtain ⟨bs, hword, hlen⟩ := fetch8_word_eq_assemble8 s
  rw [hword] at h
  exact ⟨hlen ▸ findTerm_assemble8_le_length h, fetch8_avail_le hw hb⟩

/-- The table's mask of a length selects its seven payload bits per byte. -/
theorem length_filter_maskByTable {len : Nat} (h6 : len ≤ 6) :
    ((List.range 64).filter fun i => (maskByTable len).getLsbD i).length = 7 * len := by
  have : ∀ len : Fin 7,
      ((List.range 64).filter fun i => (maskByTable len).getLsbD i).length = 7 * len := by decide
  exact this ⟨len, by omega⟩

/-- A value extracted from `len` bytes has `7 * len` bits (40_codec.md R133). -/
theorem extract_lt {w : Word} {len : Nat} (h6 : len ≤ 6) : extract w len < 2 ^ (7 * len) := by
  rw [extract, pext64_eq_packBits]
  simpa only [List.length_map, length_filter_maskByTable h6] using packBits_lt_two_pow_length
    (((List.range 64).filter fun i => (maskByTable len).getLsbD i).map fun i => w.getLsbD i)

/-- The value of a run of `n` groups has `7 * n` bits. -/
theorem runValue_lt (ps : List Payload) : runValue ps < 2 ^ (7 * ps.length) := by
  induction ps with
  | nil => simp [runValue]
  | cons p ps ih =>
    have hp : p.toNat < 2 ^ 7 := p.isLt
    rw [runValue, List.length_cons, Nat.mul_succ, Nat.pow_add]
    omega

theorem lt_two_pow_42 {v n : Nat} (hv : v < 2 ^ (7 * n)) (h6 : n ≤ 6) : v < 2 ^ 42 :=
  hv.trans_le (Nat.pow_le_pow_right (by omega) (by omega))

end Sys2Proof.Machine

/-! PROOF. Legal states (10_state.md R35 and the rules around it): reset meets the invariant, and each
operation keeps it. -/

namespace Sys2Proof.Machine

/-- Legality does not look at the ports or at the host's script. -/
theorem State.Legal.withPorts {s : State} (h : s.Legal) (io : List PortEvent)
    (pending : List HostAction) : State.Legal { s with io := io, pending := pending } where
  widths := { h.widths with }
  registers := { h.registers with }
  memories := { h.memories with }
  window hb hm := { h.window hb hm with }

theorem State.Legal.accept {s : State} (h : s.Legal) (rest : List HostAction) :
    (s.accept rest).Legal := h.withPorts _ _

theorem State.Legal.emit {s : State} (h : s.Legal) (e : PortEvent) : (s.emit e).Legal :=
  h.withPorts _ _

theorem State.Legal.respond {s : State} (h : s.Legal) (ok : Bool) :
    (Machine.respond ok s).Legal := h.emit _

theorem State.Legal.requestSource {s : State} (h : s.Legal) (o n : Nat) :
    (Machine.requestSource o n s).Legal := by
  unfold Machine.requestSource
  split
  · exact h
  · exact h.emit _

theorem State.Legal.raise {s : State} (h : s.Legal) {c : Cause} (hc : c ≠ .none) :
    (Machine.raise c s).Legal where
  widths := { h.widths with }
  registers := { h.registers with cause := by simp [hc], mark := fun _ => rfl }
  memories := { h.memories with }
  window hb hm := { h.window hb hm with }

/-- A refill establishes the window invariant, whatever the window was (41_reader_ops.md R160). -/
theorem refill_windowOk {s : State} (hwf : s.win.wf = true) : (refill s).WindowOk where
  base_le_end := by rw [refill_wbase, refill_wend]; omega
  end_le_len := by rw [refill_wend, refill_srcLen]; omega
  size := by rw [refill_wbase, refill_wend, refill_cfg]; omega
  copy k hk := by
    rw [refill_wbase, refill_wend] at hk
    have hlt : s.cursor < s.srcLen := by omega
    rw [refill_win_copied hwf hlt (by omega), refill_wbase, refill_src, Nat.min_eq_left hlt.le]

/-- A refill makes a state legal in which only the window invariant may fail. -/
theorem refill_legal {s : State} (hw : s.WidthsOk) (hr : s.RegistersOk) (hm : s.MemoriesOk) :
    (refill s).Legal where
  widths := by
    have hc := hw.cursor
    have hl := hw.srcLen
    constructor <;> simp only [refill_cfg, refill_cursor, refill_srcLen, refill_wbase, refill_wend] <;>
      omega
  registers := by
    constructor <;> simp only [refill_value, refill_len, refill_status, refill_cause, refill_everFaulted]
    exacts [hr.value, hr.len, hr.cause, hr.eos, hr.mark]
  memories :=
    { src := by rw [refill_src]; exact hm.src
      win := refill_win_wf hm.win
      winRange := fun k hk => by
        rw [refill_cfg] at hk
        rw [refill_win_kept (by omega), hm.winRange k hk]
      srcRange := by rw [refill_cfg, refill_src]; exact hm.srcRange }
  window _ _ := refill_windowOk hm.win

theorem State.Legal.fetch8_after {s : State} (h : s.Legal) : (fetch8 s).after.Legal := by
  unfold fetch8
  split
  · refine State.Legal.emit ?_ _
    split
    · exact refill_legal h.widths h.registers h.memories
    · exact h
  · exact h.requestSource _ _

theorem construct_registersOk {s : State} (buffered : Bool) : (construct buffered s).RegistersOk := by
  constructor <;> simp

theorem State.Legal.bindD {s : State} (h : s.Legal) : (construct false s).Legal where
  widths := { h.widths with }
  registers := construct_registersOk false
  memories := { h.memories with }
  window _ hm := by cases hm

theorem State.Legal.bindB {s : State} (h : s.Legal) : (refill (construct true s)).Legal :=
  refill_legal { h.widths with } (construct_registersOk true) { h.memories with }

theorem toNat_ofNat_len {n : Nat} (h6 : n ≤ 6) : (BitVec.ofNat 3 n).toNat = n := by
  rw [BitVec.toNat_ofNat, Nat.mod_eq_of_lt (by omega)]

/-- A completed DECODE of a run that ends at or below the true end. -/
theorem State.Legal.completeDecode {s : State} (h : s.Legal) {v n : Nat} (hv : v < 2 ^ (7 * n))
    (h6 : n ≤ 6) (hend : s.cursor + n ≤ s.srcLen) : (completeDecode v n s).Legal where
  widths := { h.widths with cursor := hend.trans_lt h.widths.srcLen }
  registers :=
    { h.registers with
      value := (BitVec.toNat_ofNat ..).trans_lt
        ((Nat.mod_le ..).trans_lt (lt_two_pow_42 hv h6))
      len := (toNat_ofNat_len h6).trans_le h6
      eos := fun he => ⟨rfl, by rw [completeDecode_value, eq_of_beq he]; rfl⟩ }
  memories := { h.memories with }
  window hb hm := { h.window hb hm with }

/-- A completed SKIP of a run that ends at or below the true end. -/
theorem State.Legal.completeSkip {s : State} (h : s.Legal) {n : Nat} (h6 : n ≤ 6)
    (hend : s.cursor + n ≤ s.srcLen) : (completeSkip n s).Legal where
  widths := { h.widths with cursor := hend.trans_lt h.widths.srcLen }
  registers := { h.registers with len := (toNat_ofNat_len h6).trans_le h6, eos := nofun }
  memories := { h.memories with }
  window hb hm := { h.window hb hm with }

/-- A data command keeps a legal state legal if it does so on the fetched pair. -/
theorem State.Legal.dataCommand {s : State} (h : s.Legal) {k : Word → Nat → State → State}
    (hk : s.Ready → (k (fetch8 s).word (fetch8 s).avail (fetch8 s).after).Legal) :
    (dataCommand s k).Legal := by
  rcases dataCommand_cases s k with ⟨_, heq⟩ | ⟨_, _, heq⟩ | ⟨hr, heq⟩ <;> rw [heq]
  · exact h.respond false
  · exact h.raise (by decide)
  · exact hk hr

theorem State.Legal.reservedCode {s : State} (h : s.Legal) : (reservedCode s).Legal := by
  rcases reservedCode_cases s with ⟨_, heq⟩ | ⟨_, heq⟩ <;> rw [heq]
  · exact h.respond false
  · exact h.raise (by decide)

/-- A run found by a fetch ends at or below the true end (10_state.md R23). -/
theorem State.Legal.cursor_add_found_le {s : State} (h : s.Legal) (hr : s.Ready) {n : Nat}
    (hn : findTerm (fetch8 s).word (fetch8 s).avail = .ok n) : s.cursor + n ≤ s.srcLen := by
  have hrange := findTerm_ok_range hn
  have hle := fetch8_found_le h.window hr.bound hn
  omega

theorem State.Legal.decode {s : State} (h : s.Legal) : (Machine.dataCommand s finishDecode).Legal := by
  refine h.dataCommand fun hr => ?_
  rcases finishDecode_cases (fetch8 s).word (fetch8 s).avail (fetch8 s).after with
    ⟨v, n, hd, heq⟩ | ⟨sub, _, heq⟩ <;> rw [heq]
  · obtain ⟨hn, rfl⟩ := (decodeWord_eq_ok_iff ..).1 hd
    have h6 := (findTerm_ok_range hn).2
    exact h.fetch8_after.completeDecode (extract_lt h6) h6 (by simpa using h.cursor_add_found_le hr hn)
  · exact h.fetch8_after.raise (cause_ne_none sub)

theorem State.Legal.skip {s : State} (h : s.Legal) : (Machine.dataCommand s finishSkip).Legal := by
  refine h.dataCommand fun hr => ?_
  rcases finishSkip_cases (fetch8 s).word (fetch8 s).avail (fetch8 s).after with
    ⟨n, hn, heq⟩ | ⟨sub, _, heq⟩ <;> rw [heq]
  · exact h.fetch8_after.completeSkip (findTerm_ok_range hn).2
      (by simpa using h.cursor_add_found_le hr hn)
  · exact h.fetch8_after.raise (cause_ne_none sub)

theorem State.Legal.consumeRun {s : State} (h : s.Legal) (ps : List Payload) (h1 : 1 ≤ ps.length)
    (h6 : ps.length ≤ 6) : (consumeRun ps s).Legal := by
  refine h.dataCommand fun hr => ?_
  split
  · next hle =>
    have havail := fetch8_avail_le h.window hr.bound
    exact h.fetch8_after.completeDecode (runValue_lt ps) h6
      (by rw [fetch8_after_cursor, fetch8_after_srcLen]; omega)
  · exact h.fetch8_after.raise (by decide)

theorem State.Legal.meetMalformed {s : State} (h : s.Legal) : (meetMalformed s).Legal :=
  h.dataCommand fun _ => h.fetch8_after.raise (by split <;> decide)

/-- Every instruction keeps a legal state legal. -/
theorem State.Legal.exec {i : Instr} {s t : State} (h : s.Legal) (ht : exec i s = .next t) :
    t.Legal := by
  cases i with
  | nop => cases ht; exact h.respond true
  | bindD => cases ht; exact h.bindD.respond true
  | bindB => cases ht; exact h.bindB.respond true
  | decode => cases ht; exact h.decode
  | skip => cases ht; exact h.skip
  | reserved100 => cases ht; exact h.reservedCode
  | reserved101 => cases ht; exact h.reservedCode
  | reserved110 => cases ht; exact h.reservedCode
  | fui1 p0 => cases ht; exact h.consumeRun [p0] (by simp) (by simp)
  | fui2 p0 p1 => cases ht; exact h.consumeRun [p0, p1] (by simp) (by simp)
  | fui3 p0 p1 p2 => cases ht; exact h.consumeRun [p0, p1, p2] (by simp) (by simp)
  | fui4 p0 p1 p2 p3 => cases ht; exact h.consumeRun [p0, p1, p2, p3] (by simp) (by simp)
  | fui5 p0 p1 p2 p3 p4 => cases ht; exact h.consumeRun [p0, p1, p2, p3, p4] (by simp) (by simp)
  | fui6 p0 p1 p2 p3 p4 p5 =>
    cases ht; exact h.consumeRun [p0, p1, p2, p3, p4, p5] (by simp) (by simp)
  | malformed p0 p1 p2 p3 p4 p5 => cases ht; exact h.meetMalformed
  | sentinel => cases ht; exact h.consumeRun [0] (by simp) (by simp)

/-- What a register write does, by the address (10_state.md R39). -/
theorem writeReg_cases (a : BitVec 3) (d : Nat) (s : State) :
    (a = 0#3 ∧ writeReg a d s = { s with cursor := d % 2 ^ s.cfg.aw }) ∨
    (a = 1#3 ∧ writeReg a d s =
      { s with srcLen := d % 2 ^ s.cfg.aw, status := { s.status with bound := false } }) ∨
    (a ≠ 0#3 ∧ a ≠ 1#3 ∧ writeReg a d s = s) := by
  unfold writeReg
  split
  · next h => exact .inl ⟨BitVec.eq_of_toNat_eq h, rfl⟩
  · next h => exact .inr (.inl ⟨BitVec.eq_of_toNat_eq h, rfl⟩)
  · next h0 h1 => exact .inr (.inr ⟨fun h => h0 (h ▸ rfl), fun h => h1 (h ▸ rfl), rfl⟩)

theorem State.Legal.writeReg {s : State} (h : s.Legal) (a : BitVec 3) (d : Nat) :
    (writeReg a d s).Legal := by
  have hd : d % 2 ^ s.cfg.aw < 2 ^ s.cfg.aw := Nat.mod_lt _ (Nat.two_pow_pos _)
  rcases writeReg_cases a d s with ⟨_, heq⟩ | ⟨_, heq⟩ | ⟨_, _, heq⟩ <;> rw [heq]
  · exact
      { widths := { h.widths with cursor := hd }
        registers := { h.registers with }
        memories := { h.memories with }
        window := fun hb hm => { h.window hb hm with } }
  · exact
      { widths := { h.widths with srcLen := hd }
        registers := { h.registers with }
        memories := { h.memories with }
        window := nofun }
  · exact h

/-- A fill that goes on writes only offsets that exist, and no byte that a bound window copies. -/
theorem State.Legal.hostFill {o : Nat} {bs : List Byte} {s t : State} (h : s.Legal)
    (ht : hostFill o bs s = .next t) : t.Legal := by
  obtain ⟨hfit, hkeep, rfl⟩ := hostFill_next ht
  refine
    { widths := { h.widths with }
      registers := { h.registers with }
      memories :=
        { h.memories with
          src := Memory.wf_writeList h.memories.src o bs
          srcRange := fun a ha => ?_ }
      window := fun hb hm => { h.window hb hm with copy := fun k hk => ?_ } }
  · rcases hfit with rfl | hfit
    · exact h.memories.srcRange a ha
    · exact (Memory.read_writeList_other _ _ _ (.inr (hfit.trans ha))).trans
        (h.memories.srcRange a ha)
  · have hw := h.window hb hm
    have hend := hw.end_le_len
    have hlt : k < s.wend - s.wbase := hk
    exact (hw.copy k hlt).trans
      (read_fill_below h.memories.src (hkeep hb) (a := s.wbase + k) (by omega)).symm

/-- A reset block is legal over any source in canonical form. -/
theorem resetWith_legal {cfg : Config} {src : Memory} (hwf : src.wf = true)
    (hrange : ∀ o, 2 ^ cfg.aw - 1 ≤ o → src.read o = Memory.unlisted) (io : List PortEvent)
    (pending : List HostAction) :
    State.Legal { State.resetWith cfg with src := src, io := io, pending := pending } where
  widths := ⟨Nat.two_pow_pos _, Nat.two_pow_pos _, Nat.two_pow_pos _, Nat.two_pow_pos _⟩
  registers := ⟨Nat.two_pow_pos 42, Nat.zero_le _, ⟨nofun, fun h => absurd rfl h⟩, nofun, nofun⟩
  memories := ⟨hwf, rfl, fun _ _ => rfl, hrange⟩
  window := nofun

/-- Settles O56: by the action the step accepts, each of which keeps a legal state legal. -/
theorem everyStepKeepsALegalState : Obligations.EveryStepKeepsALegalState := by
  intro s t h ht
  rcases step_cases ht with ⟨_, rfl⟩ | ⟨c, rest, _, hx⟩ | ⟨a, d, rest, _, rfl⟩ | ⟨a, rest, _, rfl⟩ |
    ⟨o, bs, rest, _, hf⟩ | ⟨a, rest, io, _, _, _, rfl⟩
  · exact h.accept []
  · exact (h.accept rest).exec hx
  · exact (h.accept rest).writeReg a d
  · exact (h.accept rest).emit _
  · exact (h.accept rest).hostFill hf
  · exact resetWith_legal h.memories.src h.memories.srcRange io rest

/-- Settles O55: the reset block over an empty source. -/
theorem resetStateIsLegal : Obligations.ResetStateIsLegal := fun _ =>
  resetWith_legal rfl (fun _ _ => rfl) [] []

end Sys2Proof.Machine

/-! PROOF. Which registers an instruction, and so a step, may change (10_state.md R20, R22, R23). -/

namespace Sys2Proof.Machine

/-- A command is a data command exactly when it is DECODE or SKIP. -/
theorem isData_command_iff {i : Instr} (hl : i.level = .command) :
    IsData i ↔ i = .decode ∨ i = .skip := by
  simp [IsData, hl]

/-- Only a data command moves CURSOR. -/
theorem exec_cursor_of_not_isData {i : Instr} {s t : State} (h : exec i s = .next t)
    (hi : ¬ IsData i) : t.cursor = s.cursor := by
  cases exec_cases h with
  | nop _ ht => subst ht; rfl
  | bindD _ ht => subst ht; rfl
  | bindB _ ht => subst ht; simp
  | refused _ _ ht => subst ht; rfl
  | illegal _ _ ht => subst ht; rfl
  | unbound hd => exact absurd hd hi
  | data hd => exact absurd hd hi

/-- An instruction after which a fault is latched leaves CURSOR where it was. -/
theorem exec_cursor_of_fault {i : Instr} {s t : State} (h : exec i s = .next t)
    (hf : t.status.fault = true) : t.cursor = s.cursor := by
  cases exec_cases h with
  | nop _ ht => subst ht; rfl
  | bindD _ ht => subst ht; rfl
  | bindB _ ht => subst ht; simp
  | refused _ _ ht => subst ht; rfl
  | illegal _ _ ht => subst ht; rfl
  | unbound _ _ _ ht => subst ht; rfl
  | data _ hr hd =>
    cases hd with
    | delivered _ _ _ _ _ ht => subst ht; simp [hr.noFault] at hf
    | skipped _ _ _ _ ht => subst ht; simp [hr.noFault] at hf
    | malformed _ ht => subst ht; simp

/-- A data command after which no fault is latched was ready and finished on its fetched pair. -/
theorem dataCommand_of_noFault {s : State} {k : Word → Nat → State → State}
    (hf : (dataCommand s k).status.fault = false) :
    s.Ready ∧ dataCommand s k = k (fetch8 s).word (fetch8 s).avail (fetch8 s).after := by
  rcases dataCommand_cases s k with ⟨hs, heq⟩ | ⟨_, _, heq⟩ | ⟨hr, heq⟩
  · rw [heq, refuse_status, hs] at hf; cases hf
  · rw [heq] at hf; cases hf
  · exact ⟨hr, heq⟩

/-- A DECODE or SKIP that succeeds found a run in the fetched pair, and LEN and CURSOR say so. -/
theorem exec_found_of_noFault {i : Instr} {s t : State} (hi : i = .decode ∨ i = .skip)
    (h : exec i s = .next t) (hf : t.status.fault = false) :
    s.Ready ∧ findTerm (fetch8 s).word (fetch8 s).avail = .ok t.len.toNat ∧
      t.cursor = s.cursor + t.len.toNat := by
  rcases hi with rfl | rfl
  · cases h
    obtain ⟨hr, hfin⟩ := dataCommand_of_noFault hf
    rcases finishDecode_cases (fetch8 s).word (fetch8 s).avail (fetch8 s).after with
      ⟨v, n, hd, heq⟩ | ⟨sub, _, heq⟩ <;> rw [hfin, heq] at hf ⊢
    · have hn := ((decodeWord_eq_ok_iff ..).1 hd).1
      simp [toNat_ofNat_len (findTerm_ok_range hn).2, hn, hr]
    · cases hf
  · cases h
    obtain ⟨hr, hfin⟩ := dataCommand_of_noFault hf
    rcases finishSkip_cases (fetch8 s).word (fetch8 s).avail (fetch8 s).after with
      ⟨n, hd, heq⟩ | ⟨sub, _, heq⟩ <;> rw [hfin, heq] at hf ⊢
    · have hn : findTerm (fetch8 s).word (fetch8 s).avail = .ok n := hd
      simp [toNat_ofNat_len (findTerm_ok_range hn).2, hn, hr]
    · cases hf

/-- Settles O53: the run that the fetch found lies within the available bytes. -/
theorem successNeverPassesTheTrueEnd : Obligations.SuccessNeverPassesTheTrueEnd := by
  intro i s t hs hi h hf
  obtain ⟨hr, hfound, hcursor⟩ := exec_found_of_noFault hi h hf
  obtain ⟨hlen, havail⟩ := fetch8_found_le hs.window hr.bound hfound
  have hend := hs.cursor_add_found_le hr hfound
  have hfit := hs.widths.srcLen
  exact ⟨hlen, havail, hcursor, hcursor ▸ hend, by omega⟩

/-- Settles O52, by the action the step accepts. -/
theorem cursorMovesAsTheTableSays : Obligations.CursorMovesAsTheTableSays := by
  intro s t h
  rcases step_cases h with ⟨hp, rfl⟩ | ⟨c, rest, hp, hx⟩ | ⟨a, d, rest, hp, rfl⟩ | ⟨a, rest, hp, rfl⟩ |
    ⟨o, bs, rest, hp, hf⟩ | ⟨a, rest, io, hp, ha, _, rfl⟩ <;> rw [hp]
  · rfl
  · show if _ then _ else _
    split
    · next hi =>
      refine ⟨fun hf => ?_, exec_cursor_of_fault (s := s.accept rest) hx⟩
      obtain ⟨_, hfound, hcursor⟩ := exec_found_of_noFault hi hx hf
      exact ⟨hcursor, findTerm_ok_range hfound⟩
    · next hi =>
      exact exec_cursor_of_not_isData (s := s.accept rest) hx
        (mt (isData_command_iff (decodeCommand_level c)).1 hi)
  · rcases writeReg_cases a d (s.accept rest) with ⟨rfl, heq⟩ | ⟨rfl, heq⟩ | ⟨ha, _, heq⟩ <;> rw [heq]
    · rfl
    · rfl
    · exact (if_neg ha).symm
  · rfl
  · obtain ⟨_, _, rfl⟩ := hostFill_next hf
    rfl
  · cases a with
    | rst => rfl
    | rstDuring => rfl
    | command | writeReg | readReg | fill => cases ha

/-- What a command may change, register by register (10_state.md R20, the column "written by"). -/
structure CommandWrites (i : Instr) (s t : State) : Prop where
  cursor : t.cursor ≠ s.cursor → i ∈ [.decode, .skip]
  value : t.value ≠ s.value → i ∈ [.decode, .bindD, .bindB]
  len : t.len ≠ s.len → i ∈ [.decode, .skip, .bindD, .bindB]
  bound : t.status.bound ≠ s.status.bound → i ∈ [.bindD, .bindB]
  mode : t.status.mode ≠ s.status.mode → i ∈ [.bindD, .bindB]
  flags : t.status.eos ≠ s.status.eos ∨ t.status.vvalid ≠ s.status.vvalid →
    i ∈ [.decode, .skip, .bindD, .bindB]
  fault : t.cause ≠ s.cause ∨ t.status.fault ≠ s.status.fault →
    i ∈ [.decode, .skip, .bindD, .bindB, .reserved100, .reserved101, .reserved110]
  srcLen : t.srcLen = s.srcLen
  src : t.src = s.src
  cfg : t.cfg = s.cfg
  marks : t.status.fault = true → s.status.fault = true ∨ t.everFaulted = true
  keepsMark : s.everFaulted = true → t.everFaulted = true

theorem exec_commandWrites {i : Instr} {s t : State} (hl : i.level = .command)
    (h : exec i s = .next t) : CommandWrites i s t := by
  have hdata := isData_command_iff hl
  cases exec_cases h with
  | nop hi ht => subst hi ht; constructor <;> simp +contextual
  | bindD hi ht => subst hi ht; constructor <;> simp
  | bindB hi ht => subst hi ht; constructor <;> simp
  | refused _ _ ht => subst ht; constructor <;> simp +contextual
  | illegal hi _ ht =>
    subst ht; rcases hi with rfl | rfl | rfl <;> constructor <;> simp
  | unbound hi _ _ ht =>
    subst ht; rcases hdata.1 hi with rfl | rfl <;> constructor <;> simp
  | data hi hr hd =>
    cases hd with
    | delivered v n hne _ _ ht =>
      obtain rfl := (hdata.1 hi).resolve_right hne
      subst ht; constructor <;> simp +contextual
    | skipped n hi _ _ ht => subst hi ht; constructor <;> simp +contextual
    | malformed sub ht =>
      subst ht; rcases hdata.1 hi with rfl | rfl <;> constructor <;> simp

/-- Settles O54, by the action the step accepts; a command's registers are those of
`exec_commandWrites`. -/
theorem registersChangeOnlyByTheirWriters : Obligations.RegistersChangeOnlyByTheirWriters := by
  intro s t h
  rcases step_cases h with ⟨_, rfl⟩ | ⟨c, rest, hp, hx⟩ | ⟨a, d, rest, hp, rfl⟩ | ⟨a, rest, _, rfl⟩ |
    ⟨o, bs, rest, hp, hf⟩ | ⟨a, rest, io, hp, ha, _, rfl⟩
  · simp +contextual
  · have w := exec_commandWrites (decodeCommand_level c) hx
    have hcmd {is : List Instr} (hi : decodeCommand c ∈ is) : s.Accepts (HostAction.IsCommand is) :=
      ⟨_, _, hp, hi⟩
    exact ⟨fun h => .inr (.inl (hcmd (w.cursor h))), fun h => absurd w.srcLen h,
      fun h => .inl (hcmd (w.value h)), fun h => .inl (hcmd (w.len h)),
      fun h => .inl (hcmd (w.bound h)), fun h => .inl (hcmd (w.mode h)),
      fun h => .inl (hcmd (w.flags h)), fun h => .inl (hcmd (w.fault h)),
      fun h => absurd w.src h, w.cfg, w.marks, fun h => .inl (w.keepsMark h)⟩
  · have hwrite : s.Accepts (HostAction.IsWrite a) := ⟨_, _, hp, rfl⟩
    rcases writeReg_cases a d (s.accept rest) with ⟨rfl, heq⟩ | ⟨rfl, heq⟩ | ⟨_, _, heq⟩ <;>
      rw [heq]
    · simp +contextual [hwrite]
    · simp +contextual [hwrite]
    · simp +contextual
  · simp +contextual
  · have hfill : s.Accepts HostAction.IsFill := ⟨_, _, hp, trivial⟩
    obtain ⟨_, _, rfl⟩ := hostFill_next hf
    simp +contextual [hfill]
  · have hreset : s.Accepts HostAction.IsReset := ⟨_, _, hp, ha⟩
    simp [hreset, State.resetWith, Status.zero]

end Sys2Proof.Machine

/-! PROOF. The values after reset (10_state.md R40) and the register port (10_state.md R38, R39). -/

namespace Sys2Proof.Machine

/-- Settles O1: each register of the reset block is written out in `State.resetWith`. -/
theorem resetLeavesEveryRegisterZero : Obligations.ResetLeavesEveryRegisterZero := by
  rintro cfg s rfl
  exact ⟨rfl, rfl, rfl, rfl, rfl, rfl, rfl, rfl⟩

/-- STATUS is read as its flags by weight: five bits fit the eight. -/
theorem toByte_toNat (st : Status) : st.toByte.toNat =
    st.bound.toNat + 2 * st.mode.toNat + 4 * st.eos.toNat + 8 * st.vvalid.toNat +
      16 * st.fault.toNat := by
  have hbound := st.bound.toNat_le
  have hmode := st.mode.toNat_le
  have heos := st.eos.toNat_le
  have hvvalid := st.vvalid.toNat_le
  have hfault := st.fault.toNat_le
  rw [Status.toByte, BitVec.toNat_ofNat, Nat.mod_eq_of_lt (by omega)]

theorem code_toNat (c : Cause) : c.code.toNat =
    match c with
    | .none => 0
    | .overlong => 1
    | .truncated => 2
    | .notBound => 3
    | .illegalCommand => 4 := by
  cases c <;> rfl

/-- The register map of 10_state.md R38 as a table by address. -/
theorem readReg_eq_getD (s : State) (addr : BitVec 3) : readReg s addr =
    [s.cursor, s.srcLen, s.value.toNat, s.len.toNat, s.status.toByte.toNat, s.cause.code.toNat,
      0, 0].getD addr.toNat 0 := by
  obtain ⟨⟨n, hn⟩⟩ := addr
  have : n < 8 := hn
  interval_cases n <;> rfl

/-- Settles O48: the step shows what the register map gives. -/
theorem registerReadsReturnTheTable : Obligations.RegisterReadsReturnTheTable := by
  intro s addr rest hp
  have hstep : step s = hostRead addr (s.accept rest) := by rw [step, hp]
  rw [hstep, hostRead, readReg_eq_getD, toByte_toNat, code_toNat]
  rfl

/-- Settles O49, by the address (`writeReg_cases`). -/
theorem registerWritesChangeWhatTheTableSays : Obligations.RegisterWritesChangeWhatTheTableSays := by
  intro s addr d rest hp
  have hstep : step s = .next (writeReg addr d (s.accept rest)) := by rw [step, hp]; rfl
  rw [hstep]
  rcases writeReg_cases addr d (s.accept rest) with ⟨rfl, heq⟩ | ⟨rfl, heq⟩ | ⟨h0, h1, heq⟩ <;> rw [heq]
  · rfl
  · rfl
  · exact congrArg _ ((if_neg h0).trans (if_neg h1)).symm

end Sys2Proof.Machine

/-! PROOF. The memories (20_memory.md): the little-endian assembly, what an instruction reads of the
source and leaves of it, its requests and prefetch pulses, and when the window changes. -/

namespace Sys2Proof.Machine

/-- The bytes of the list bound the assembled word: the lanes above them are zero. -/
theorem assemble8_lt (bs : List Byte) : (assemble8 bs).toNat < 2 ^ (8 * bs.length) := by
  refine Nat.lt_pow_two_of_testBit _ fun j hj => ?_
  rw [BitVec.testBit_toNat, getLsbD_assemble8, List.getD_eq_default _ _ (by omega)]
  simp

/-- One byte more is one lane more at the low end, as long as the rest fits above it. -/
theorem assemble8_cons_toNat {b : Byte} {bs : List Byte} (h : bs.length ≤ 7) :
    (assemble8 (b :: bs)).toNat = b.toNat + 2 ^ 8 * (assemble8 bs).toNat := by
  have hbs : (assemble8 bs).toNat < 2 ^ 56 :=
    (assemble8_lt bs).trans_le (Nat.pow_le_pow_right (by omega) (by omega))
  have hb : b.toNat < 2 ^ 8 := b.isLt
  have hshift : (assemble8 bs <<< 8).toNat = (assemble8 bs).toNat <<< 8 := by
    rw [BitVec.toNat_shiftLeft, Nat.mod_eq_of_lt]
    rw [Nat.shiftLeft_eq]
    omega
  rw [assemble8, BitVec.toNat_or, hshift, BitVec.toNat_setWidth_of_le (by omega), Nat.or_comm,
    ← Nat.shiftLeft_add_eq_or_of_lt hb, Nat.shiftLeft_eq]
  omega

/-- Settles O10, by induction on the bytes: the sum over a longer list is its first byte and 256 times
the sum over the rest. -/
theorem assemblyIsLittleEndian : Obligations.AssemblyIsLittleEndian := by
  intro bs h
  induction bs with
  | nil => rfl
  | cons b bs ih =>
    rw [List.length_cons] at h ⊢
    rw [assemble8_cons_toNat (by omega), ih (by omega), Finset.sum_range_succ', Finset.mul_sum,
      Nat.add_comm]
    congr 1
    · refine Finset.sum_congr rfl fun i _ => ?_
      rw [List.getD_cons_succ]
      ring
    · simp

/-- What a data command leaves of the window and of the traffic on the ports is what its fetch left. -/
structure LeavesAsFetched (s t : State) : Prop where
  window : (t.wbase, t.wend, t.win) =
    ((fetch8 s).after.wbase, (fetch8 s).after.wend, (fetch8 s).after.win)
  hints : hints t.io = hints (fetch8 s).after.io
  requests : requests t.io = requests (fetch8 s).after.io

theorem DataResult.leavesAsFetched {s t : State} {i : Instr} (h : DataResult s i t) :
    LeavesAsFetched s t := by
  cases h with
  | delivered _ _ _ _ _ ht => subst ht; constructor <;> simp
  | skipped _ _ _ _ ht => subst ht; constructor <;> simp
  | malformed _ ht => subst ht; constructor <;> simp

/-- The source, its true end, the parameters and the script are no instruction's to write. -/
structure KeepsSource (s t : State) : Prop where
  src : t.src = s.src
  srcLen : t.srcLen = s.srcLen
  cfg : t.cfg = s.cfg
  pending : t.pending = s.pending

theorem DataResult.keepsSource {s t : State} {i : Instr} (h : DataResult s i t) :
    KeepsSource s t := by
  cases h with
  | delivered _ _ _ _ _ ht => subst ht; constructor <;> simp
  | skipped _ _ _ _ ht => subst ht; constructor <;> simp
  | malformed _ ht => subst ht; constructor <;> simp

theorem exec_keepsSource {i : Instr} {s t : State} (h : exec i s = .next t) : KeepsSource s t := by
  cases exec_cases h with
  | nop _ ht => subst ht; constructor <;> rfl
  | bindD _ ht => subst ht; constructor <;> rfl
  | bindB _ ht => subst ht; constructor <;> simp
  | refused _ _ ht => subst ht; constructor <;> rfl
  | illegal _ _ ht => subst ht; constructor <;> rfl
  | unbound _ _ _ ht => subst ht; constructor <;> rfl
  | data _ _ hd => exact hd.keepsSource

/-- Settles O40: `exec_keepsSource`. -/
theorem noInstructionWritesTheSource : Obligations.NoInstructionWritesTheSource := by
  intro i s t h
  obtain ⟨hsrc, hlen, hcfg, hpending⟩ := exec_keepsSource h
  exact ⟨hsrc, hlen, hcfg, hpending⟩

/-- A byte of the fill that stands below the true end and differs from the source's changes it. -/
theorem changesSource_of_ne {s : State} {off k : Nat} {bs : List Byte} (hk : k < bs.length)
    (hlen : off + k < s.srcLen) (hne : bs.getD k 0 ≠ s.src.read (off + k)) :
    changesSource s off bs = true := by
  refine List.any_eq_true.2 ⟨k, List.mem_range.2 hk, ?_⟩
  rw [decide_eq_true hlen, Bool.true_and, bne_iff_ne]
  exact hne

/-- Settles O51: every byte has its offset, so the fill comes to the check of the bound source. -/
theorem changeOfABoundSourceIsRefused : Obligations.ChangeOfABoundSourceIsRefused := by
  intro s off k bs rest hp hb hfit hk hlen hne
  have hstep : step s = hostFill off bs (s.accept rest) := by rw [step, hp]
  have hchange : changesSource (s.accept rest) off bs = true := changesSource_of_ne hk hlen hne
  rw [hstep, hostFill, if_neg fun hpast => Nat.not_lt.2 hfit hpast.2, accept_status, hb, hchange]
  rfl

/-! The window (20_memory.md R73, 41_reader_ops.md R168). -/

/-- A fetch that needs no refill leaves the window. -/
theorem LeavesAsFetched.window_kept {s t : State} (h : LeavesAsFetched s t)
    (hn : ¬ (s.status.mode = true ∧ needRefresh s = true)) :
    t.wbase = s.wbase ∧ t.wend = s.wend ∧ t.win = s.win := by
  have hw := h.window
  rw [fetch8_after_window, if_neg hn] at hw
  simpa only [Prod.mk.injEq] using hw

/-- An instruction keeps the window, or is BIND.B, or a data command that refreshes it. -/
theorem exec_window_kept_or_refilled {i : Instr} {s t : State} (h : exec i s = .next t) :
    (t.wbase = s.wbase ∧ t.wend = s.wend ∧ t.win = s.win) ∨ i = .bindB ∨
    (IsData i ∧ s.Ready ∧ s.status.mode = true ∧ needRefresh s = true) := by
  cases exec_cases h with
  | nop _ ht => subst ht; exact .inl ⟨rfl, rfl, rfl⟩
  | bindD _ ht => subst ht; exact .inl ⟨rfl, rfl, rfl⟩
  | bindB hi _ => exact .inr (.inl hi)
  | refused _ _ ht => subst ht; exact .inl ⟨rfl, rfl, rfl⟩
  | illegal _ _ ht => subst ht; exact .inl ⟨rfl, rfl, rfl⟩
  | unbound _ _ _ ht => subst ht; exact .inl ⟨rfl, rfl, rfl⟩
  | data hi hr hd =>
    by_cases hn : s.status.mode = true ∧ needRefresh s = true
    · exact .inr (.inr ⟨hi, hr, hn⟩)
    · exact .inl (hd.leavesAsFetched.window_kept hn)

/-- Settles O37: `exec_window_kept_or_refilled`, and for a step the action it accepts. -/
theorem onlyARefillOrResetChangesTheWindow : Obligations.OnlyARefillOrResetChangesTheWindow := by
  refine ⟨fun s t i h => exec_window_kept_or_refilled h, fun s t h => ?_⟩
  rcases step_cases h with ⟨_, rfl⟩ | ⟨c, rest, hp, hx⟩ | ⟨a, d, rest, _, rfl⟩ | ⟨a, rest, _, rfl⟩ |
    ⟨o, bs, rest, _, hf⟩ | ⟨a, rest, io, hp, ha, _, rfl⟩
  · exact .inl ⟨rfl, rfl, rfl⟩
  · rcases exec_window_kept_or_refilled hx with hkept | hbind | ⟨hdata, _⟩
    · exact .inl hkept
    · exact .inr (.inl ⟨_, _, hp, by simp [HostAction.IsCommand, hbind]⟩)
    · have hcmd := (isData_command_iff (decodeCommand_level c)).1 hdata
      exact .inr (.inl ⟨_, _, hp, by simpa [HostAction.IsCommand] using .inr hcmd⟩)
  · exact .inl ⟨by simp, by simp, by simp⟩
  · exact .inl ⟨rfl, rfl, rfl⟩
  · obtain ⟨_, _, rfl⟩ := hostFill_next hf
    exact .inl ⟨rfl, rfl, rfl⟩
  · exact .inr (.inr ⟨_, _, hp, ha⟩)

/-! The requests and the prefetch pulses (20_memory.md R65, 41_reader_ops.md R161). -/

/-- NeedRefresh as the two comparisons of 41_reader_ops.md R159. -/
theorem needRefresh_iff (s : State) :
    needRefresh s = true ↔ s.cursor < s.wbase ∨ s.wend < s.cursor + 8 := by
  simp [needRefresh]

/-- A reserved code is none of the instructions that read the source. -/
theorem IsReserved.ne_reader {i : Instr} (h : IsReserved i) :
    i ≠ .decode ∧ i ≠ .skip ∧ i ≠ .bindB := by
  rcases h with rfl | rfl | rfl <;> decide

theorem IsData.ne_bindB {i : Instr} (h : IsData i) : i ≠ .bindB := by
  rintro rfl
  rcases h with h | h | h <;> cases h

/-- Settles O38, by what the instruction can do: the traffic of a data command is that of its fetch,
that of BIND.B its refill's, and every other command drives its response alone. -/
theorem commandsIssueExactlyTheirRequestsAndHints :
    Obligations.CommandsIssueExactlyTheirRequestsAndHints := by
  intro s t i hl h
  cases exec_cases h with
  | nop hi ht => subst hi ht; simp
  | bindD hi ht => subst hi ht; simp
  | bindB hi ht =>
    subst hi ht
    rcases Nat.lt_or_ge s.cursor s.srcLen with hlt | hge
    · simp [refill_requests, hlt]
    · simp [refill_requests, hge]
  | refused hi hf ht =>
    have hne : i ≠ .bindB := hi.elim (fun h => h.ne_reader.2.2) IsData.ne_bindB
    subst ht
    simp [hf, hne]
  | illegal hi _ ht =>
    obtain ⟨hdecode, hskip, hbind⟩ := hi.ne_reader
    subst ht
    simp [hdecode, hskip, hbind]
  | unbound hi _ hb ht => subst ht; simp [hb, hi.ne_bindB]
  | data hi hr hd =>
    obtain ⟨hwindow, hhints, hrequests⟩ := hd.leavesAsFetched
    have hbase : t.wbase = (fetch8 s).after.wbase := congrArg Prod.fst hwindow
    have hcmd := (isData_command_iff hl).1 hi
    rw [hhints, hrequests, fetch8_hints, fetch8_requests, hbase]
    simp only [hcmd, hi.ne_bindB, hr.bound, hr.noFault, needRefresh_iff, true_and, and_self, if_true,
      if_false]
    rcases Nat.lt_or_ge s.cursor s.srcLen with hlt | hge
    · rw [if_pos hlt, if_neg (Nat.not_le.2 hlt)]
    · rw [if_neg (Nat.not_lt.2 hge), if_pos hge]

/-! The source past the true end (20_memory.md R62, R68). -/

/-- The same block over another source. -/
def State.withSrc (s : State) (m : Memory) : State := { s with src := m }

theorem requestSource_withSrc (o n : Nat) (s : State) (m : Memory) :
    requestSource o n (s.withSrc m) = (requestSource o n s).withSrc m := by
  unfold requestSource
  split <;> rfl

theorem finishDecode_withSrc (w : Word) (a : Nat) (s : State) (m : Memory) :
    finishDecode w a (s.withSrc m) = (finishDecode w a s).withSrc m := by
  unfold finishDecode
  split <;> rfl

theorem finishSkip_withSrc (w : Word) (a : Nat) (s : State) (m : Memory) :
    finishSkip w a (s.withSrc m) = (finishSkip w a s).withSrc m := by
  unfold finishSkip
  split <;> rfl

theorem reservedCode_withSrc (s : State) (m : Memory) :
    reservedCode (s.withSrc m) = (reservedCode s).withSrc m := by
  have hfault : (s.withSrc m).status.fault = s.status.fault := rfl
  unfold reservedCode unlessFaulted
  rw [hfault]
  split <;> rfl

section PastTheEnd

variable {s : State} {m : Memory} (hm : ∀ o, o < s.srcLen → m.read o = s.src.read o)

include hm

/-- A read clipped to the true end sees none of the bytes past it. -/
theorem srcRead_withSrc {o n : Nat} (h : o + n ≤ s.srcLen ∨ n = 0) :
    srcRead (s.withSrc m) o n = srcRead s o n :=
  Memory.readList_congr fun i hi => hm (o + i) (by omega)

theorem bytesAhead_withSrc : (s.withSrc m).bytesAhead = s.bytesAhead :=
  srcRead_withSrc hm (o := s.cursor) (n := min 8 (s.srcLen - s.cursor)) (by omega)

theorem refill_withSrc : refill (s.withSrc m) = (refill s).withSrc m := by
  rcases Nat.lt_or_ge s.cursor s.srcLen with h | h
  · have hread := srcRead_withSrc hm (o := s.cursor) (n := min s.cfg.w (s.srcLen - s.cursor))
      (by omega)
    rw [refill_of_lt h, refill_of_lt (s := s.withSrc m) h, requestSource_withSrc]
    simp only [State.withSrc] at hread ⊢
    rw [hread]
  · rw [refill_of_le h, refill_of_le (s := s.withSrc m) h]
    rfl

theorem fetch8Direct_withSrc : fetch8Direct (s.withSrc m) =
    { fetch8Direct s with after := (fetch8Direct s).after.withSrc m } := by
  rw [fetch8Direct_eq, fetch8Direct_eq, bytesAhead_withSrc hm, requestSource_withSrc]
  rfl

theorem fetch8Buffered_withSrc : fetch8Buffered (s.withSrc m) =
    { fetch8Buffered s with after := (fetch8Buffered s).after.withSrc m } := by
  have hneed : needRefresh (s.withSrc m) = needRefresh s := rfl
  unfold fetch8Buffered
  rw [hneed, refill_withSrc hm]
  cases needRefresh s <;> rfl

/-- A fetch gives the same word and the same count from both sources. -/
theorem fetch8_withSrc :
    fetch8 (s.withSrc m) = { fetch8 s with after := (fetch8 s).after.withSrc m } := by
  have hmode : (s.withSrc m).status.mode = s.status.mode := rfl
  unfold fetch8
  rw [fetch8Buffered_withSrc hm, fetch8Direct_withSrc hm, hmode]
  cases s.status.mode <;> rfl

/-- A data command does the same from both sources if what it does after the fetch does not look at
the source. -/
theorem dataCommand_withSrc {k : Word → Nat → State → State}
    (hk : ∀ w a (u : State), k w a (u.withSrc m) = (k w a u).withSrc m) :
    dataCommand (s.withSrc m) k = (dataCommand s k).withSrc m := by
  rcases dataCommand_cases s k with ⟨hf, heq⟩ | ⟨hf, hb, heq⟩ | ⟨hr, heq⟩ <;> rw [heq]
  · exact dataCommand_of_fault (s := s.withSrc m) hf k
  · exact dataCommand_of_unbound (s := s.withSrc m) hf hb k
  · rw [dataCommand_of_ready (s := s.withSrc m) ⟨hr.bound, hr.noFault⟩, fetch8_withSrc hm, hk]

theorem consumeRun_withSrc (ps : List Payload) :
    consumeRun ps (s.withSrc m) = (consumeRun ps s).withSrc m :=
  dataCommand_withSrc hm fun _ _ _ => by split <;> rfl

theorem meetMalformed_withSrc : meetMalformed (s.withSrc m) = (meetMalformed s).withSrc m :=
  dataCommand_withSrc hm fun _ _ _ => rfl

end PastTheEnd

/-- Settles O39, by the instruction: each reads the source through a fetch or a refill alone. -/
theorem bytesPastTheTrueEndAreNeverRead : Obligations.BytesPastTheTrueEndAreNeverRead := by
  intro i s t m hm h
  cases i with
  | nop => cases h; rfl
  | bindD => cases h; rfl
  | bindB =>
    cases h
    exact congrArg (fun u => Host.Outcome.next (respond true u))
      (refill_withSrc (s := construct true s) hm)
  | decode =>
    cases h; exact congrArg _ (dataCommand_withSrc hm fun w a u => finishDecode_withSrc w a u m)
  | skip =>
    cases h; exact congrArg _ (dataCommand_withSrc hm fun w a u => finishSkip_withSrc w a u m)
  | reserved100 => cases h; exact congrArg _ (reservedCode_withSrc s m)
  | reserved101 => cases h; exact congrArg _ (reservedCode_withSrc s m)
  | reserved110 => cases h; exact congrArg _ (reservedCode_withSrc s m)
  | fui1 p0 => cases h; exact congrArg _ (consumeRun_withSrc hm [p0])
  | fui2 p0 p1 => cases h; exact congrArg _ (consumeRun_withSrc hm [p0, p1])
  | fui3 p0 p1 p2 => cases h; exact congrArg _ (consumeRun_withSrc hm [p0, p1, p2])
  | fui4 p0 p1 p2 p3 => cases h; exact congrArg _ (consumeRun_withSrc hm [p0, p1, p2, p3])
  | fui5 p0 p1 p2 p3 p4 => cases h; exact congrArg _ (consumeRun_withSrc hm [p0, p1, p2, p3, p4])
  | fui6 p0 p1 p2 p3 p4 p5 =>
    cases h; exact congrArg _ (consumeRun_withSrc hm [p0, p1, p2, p3, p4, p5])
  | malformed p0 p1 p2 p3 p4 p5 => cases h; exact congrArg _ (meetMalformed_withSrc hm)
  | sentinel => cases h; exact congrArg _ (consumeRun_withSrc hm [0])

end Sys2Proof.Machine

/-! PROOF. The terminator search (30_encoding.md R92, R96, 40_codec.md R121): which T bits decide it. -/

namespace Sys2Proof.Machine

/-- The lowest set high bit is bit 7 of the first lane with T = 1 (40_codec.md R122). -/
theorem ctz64_highBits_eq_some_iff (w : Word) (p : Nat) : ctz64 (highBits w) = some p ↔
    ∃ i, i < 8 ∧ p = 8 * i + 7 ∧ w.getLsbD (8 * i + 7) = true ∧
      ∀ k, k < i → w.getLsbD (8 * k + 7) = false := by
  simp only [ctz64_eq_some_iff, getLsbD_highBits, Bool.and_eq_true, Bool.and_eq_false_iff,
    decide_eq_true_eq, decide_eq_false_iff_not]
  constructor
  · rintro ⟨hp, ⟨h7, hT⟩, hlow⟩
    have hpi : 8 * (p / 8) + 7 = p := by omega
    exact ⟨p / 8, by omega, hpi.symm, by rwa [hpi],
      fun k hk => (hlow (8 * k + 7) (by omega)).resolve_left (by omega)⟩
  · rintro ⟨i, hi, rfl, hT, hlow⟩
    refine ⟨by omega, ⟨by omega, hT⟩, fun j hj => or_iff_not_imp_left.2 fun h7 => ?_⟩
    rw [show j = 8 * (j / 8) + 7 by omega]
    exact hlow (j / 8) (by omega)

/-- The length a terminator at bit 7 of a lane gives. -/
theorem lane_div_add_one (i : Nat) : (8 * i + 7) / 8 + 1 = i + 1 := by omega

/-- Settles O12: the lowest set high bit is that of the run's last lane. -/
theorem runEndsAtItsFirstTerminator : Obligations.RunEndsAtItsFirstTerminator := by
  intro w avail len
  constructor
  · intro h
    obtain ⟨h1, h6⟩ := findTerm_ok_range h
    unfold findTerm at h
    split at h
    · next p hp =>
      obtain ⟨i, _, rfl, hT, hlow⟩ := (ctz64_highBits_eq_some_iff w p).1 hp
      rw [lane_div_add_one] at h
      split at h <;> cases h
      exact ⟨h1, h6, hT, hlow⟩
    · split at h <;> cases h
  · rintro ⟨h1, h6, hT, hlow⟩
    obtain ⟨i, rfl⟩ := Nat.exists_eq_add_of_le' h1
    have hctz := (ctz64_highBits_eq_some_iff w _).2 ⟨i, by omega, rfl, hT, hlow⟩
    simp only [findTerm, hctz, lane_div_add_one, MAX_LEN_eq, h6, if_true]

/-- `RunEndsAtItsFirstTerminator` for a run of `n + 1` bytes. -/
theorem findTerm_eq_ok_succ_iff (w : Word) (avail n : Nat) : findTerm w avail = .ok (n + 1) ↔
    n < 6 ∧ w.getLsbD (8 * n + 7) = true ∧ ∀ i, i < n → w.getLsbD (8 * i + 7) = false := by
  rw [runEndsAtItsFirstTerminator w avail (n + 1), Nat.add_sub_cancel]
  constructor
  · rintro ⟨_, h6, h⟩
    exact ⟨h6, h⟩
  · rintro ⟨h6, h⟩
    exact ⟨Nat.succ_pos n, h6, h⟩

/-- The consumed length of a terminator search, 0 where there is no run. -/
def Found.len : Found → Nat
  | .ok len => len
  | .malformed _ => 0

/-- A search answers a length exactly when that is its consumed length and not 0. -/
theorem findTerm_eq_ok_iff_len (w : Word) (avail len : Nat) :
    findTerm w avail = .ok len ↔ (findTerm w avail).len = len ∧ len ≠ 0 := by
  cases h : findTerm w avail with
  | ok n =>
    have hn := (findTerm_ok_range h).1
    simp only [Found.len, Found.ok.injEq]
    omega
  | malformed _ => simp [Found.len, eq_comm]

theorem findTerm_len_eq_succ_iff (w : Word) (avail n : Nat) : (findTerm w avail).len = n + 1 ↔
    n < 6 ∧ w.getLsbD (8 * n + 7) = true ∧ ∀ i, i < n → w.getLsbD (8 * i + 7) = false := by
  rw [← findTerm_eq_ok_succ_iff w avail n, findTerm_eq_ok_iff_len]
  simp

theorem findTerm_len_le (w : Word) (avail : Nat) : (findTerm w avail).len ≤ 6 := by
  cases h : findTerm w avail with
  | ok len => exact (findTerm_ok_range h).2
  | malformed _ => exact Nat.zero_le 6

/-- There is no run exactly where none of the first six lanes has T = 1. -/
theorem findTerm_len_eq_zero_iff (w : Word) (avail : Nat) :
    (findTerm w avail).len = 0 ↔ ∀ i, i < 6 → w.getLsbD (8 * i + 7) = false := by
  constructor
  · intro h i
    induction i using Nat.strong_induction_on with
    | _ i ih =>
      intro hi
      by_contra hT
      have hok := (findTerm_eq_ok_succ_iff w avail i).2
        ⟨hi, by simpa using hT, fun k hk => ih k hk (hk.trans hi)⟩
      rw [hok] at h
      cases h
  · intro h
    cases hn : (findTerm w avail).len with
    | zero => rfl
    | succ n =>
      rw [findTerm_len_eq_succ_iff] at hn
      obtain ⟨h6, hT, _⟩ := hn
      rw [h n h6] at hT
      cases hT

/-- A search without a run is malformed, and only such a one. -/
theorem findTerm_len_eq_zero_iff_malformed (w : Word) (avail : Nat) :
    (findTerm w avail).len = 0 ↔ ∃ sub, findTerm w avail = .malformed sub := by
  cases h : findTerm w avail with
  | ok len =>
    have := (findTerm_ok_range h).1
    simp [Found.len]
    omega
  | malformed sub => simp [Found.len]

end Sys2Proof.Machine

/-! PROOF. The form table (30_encoding.md R95). -/

namespace Sys2Proof

open Machine

theorem FormRow.selects_iff (r : FormRow) (w : Word) :
    r.selects w = true ↔ w &&& r.mask = r.value := beq_iff_eq

/-- How many lanes a row's mask looks at. -/
def FormRow.lanes (r : FormRow) : Nat := if r.len = 0 then 6 else r.len

/-- A row's mask is bit 7 of each of its lanes. -/
theorem getLsbD_formRow_mask {r : FormRow} (hr : r ∈ formRows) {j : Nat} (hj : j < 64) :
    r.mask.getLsbD j = decide (j % 8 = 7 ∧ j / 8 < r.lanes) := by
  have : ∀ r ∈ formRows, ∀ j : Fin 64,
      r.mask.getLsbD j = decide ((j : Nat) % 8 = 7 ∧ (j : Nat) / 8 < r.lanes) := by decide
  exact this r hr ⟨j, hj⟩

/-- A row's value is bit 7 of the last lane of its form, and no bit for the malformed row. -/
theorem getLsbD_formRow_value {r : FormRow} (hr : r ∈ formRows) {j : Nat} (hj : j < 64) :
    r.value.getLsbD j = decide (j % 8 = 7 ∧ j / 8 + 1 = r.len) := by
  have : ∀ r ∈ formRows, ∀ j : Fin 64,
      r.value.getLsbD j = decide ((j : Nat) % 8 = 7 ∧ (j : Nat) / 8 + 1 = r.len) := by decide
  exact this r hr ⟨j, hj⟩

/-- A row selects a word by the T bits of its lanes: 1 in the last lane of its form, 0 in the others. -/
theorem and_mask_eq_value_iff {r : FormRow} (hr : r ∈ formRows) (w : Word) :
    w &&& r.mask = r.value ↔
      ∀ i, i < r.lanes → w.getLsbD (8 * i + 7) = decide (i + 1 = r.len) := by
  have hlanes : ∀ r ∈ formRows, r.lanes ≤ 6 ∧ r.len ≤ r.lanes := by decide
  obtain ⟨h6, hlen⟩ := hlanes r hr
  constructor
  · intro h i hi
    have hbit := congrArg (fun x : Word => x.getLsbD (8 * i + 7)) h
    simp only [BitVec.getLsbD_and, getLsbD_formRow_mask hr (show 8 * i + 7 < 64 by omega),
      getLsbD_formRow_value hr (show 8 * i + 7 < 64 by omega)] at hbit
    simpa [show (8 * i + 7) % 8 = 7 by omega, show (8 * i + 7) / 8 = i by omega, hi] using hbit
  · intro h
    refine BitVec.eq_of_getLsbD_eq fun j hj => ?_
    rw [BitVec.getLsbD_and, getLsbD_formRow_mask hr hj, getLsbD_formRow_value hr hj]
    by_cases h7 : j % 8 = 7
    · by_cases hi : j / 8 < r.lanes
      · have hbit := h (j / 8) hi
        rw [show 8 * (j / 8) + 7 = j by omega] at hbit
        simp [h7, hi, hbit]
      · simp [h7, hi, show j / 8 + 1 ≠ r.len by omega]
    · simp [h7]

/-- A row selects exactly the words whose terminator search answers its length. -/
theorem and_mask_eq_value_iff_len {r : FormRow} (hr : r ∈ formRows) (w : Word) (avail : Nat) :
    w &&& r.mask = r.value ↔ (findTerm w avail).len = r.len := by
  have h6 : ∀ r ∈ formRows, r.len ≤ 6 := by decide
  rw [and_mask_eq_value_iff hr, FormRow.lanes]
  cases hlen : r.len with
  | zero => simp [findTerm_len_eq_zero_iff]
  | succ n =>
    have hn : n < 6 := by have := h6 r hr; omega
    rw [findTerm_len_eq_succ_iff]
    simp only [Nat.succ_ne_zero, if_false]
    constructor
    · intro h
      exact ⟨hn, by simpa using h n (Nat.lt_succ_self n),
        fun i hi => by simpa [hi.ne] using h i (by omega)⟩
    · rintro ⟨_, hT, hlow⟩ i hi
      rcases Nat.lt_succ_iff_lt_or_eq.1 hi with hi | rfl
      · simp [hlow i hi, hi.ne]
      · simp [hT]

/-- Exactly one row has each length of 0 to 6. -/
theorem existsUnique_formRow {n : Nat} (hn : n ≤ 6) : ∃! r, r ∈ formRows ∧ r.len = n := by
  have hex : ∀ n : Fin 7, ∃ r ∈ formRows, r.len = n := by decide
  have hinj : ∀ r ∈ formRows, ∀ r' ∈ formRows, r.len = r'.len → r = r' := by decide
  obtain ⟨r, hr, hlen⟩ := hex ⟨n, by omega⟩
  exact ⟨r, ⟨hr, hlen⟩, fun r' ⟨hr', hlen'⟩ => hinj r' hr' r hr (hlen'.trans hlen.symm)⟩

/-- Exactly one row selects a word. -/
theorem existsUnique_formRow_and_mask (w : Word) : ∃! r, r ∈ formRows ∧ w &&& r.mask = r.value := by
  obtain ⟨r, ⟨hr, hlen⟩, huniq⟩ := existsUnique_formRow (findTerm_len_le w 0)
  exact ⟨r, ⟨hr, (and_mask_eq_value_iff_len hr w 0).2 hlen.symm⟩, fun r' ⟨hr', hsel⟩ =>
    huniq r' ⟨hr', ((and_mask_eq_value_iff_len hr' w 0).1 hsel).symm⟩⟩

/-- The decoder's length of the form is the one the terminator search answers. -/
theorem formLen_eq (w : Word) (avail : Nat) : formLen w = (findTerm w avail).len := by
  unfold formLen
  cases hfind : formRows.find? fun r => r.selects w with
  | none =>
    obtain ⟨r, ⟨hr, hsel⟩, _⟩ := existsUnique_formRow_and_mask w
    exact absurd ((r.selects_iff w).2 hsel) (List.find?_eq_none.1 hfind r hr)
  | some r =>
    have hsel := (r.selects_iff w).1 (List.find?_some (p := fun r : FormRow => r.selects w) hfind)
    exact ((and_mask_eq_value_iff_len (List.mem_of_find?_eq_some hfind) w avail).1 hsel).symm

end Sys2Proof

namespace Sys2Proof.Machine

/-- `pext64` sees the bits under the mask only. -/
theorem pext64_congr {x y m : Word} (h : x &&& m = y &&& m) : pext64 x m = pext64 y m := by
  rw [pext64_eq_packBits, pext64_eq_packBits]
  refine congrArg packBits (List.map_congr_left fun i hi => ?_)
  have hm : m.getLsbD i = true := (List.mem_filter.1 hi).2
  simpa [hm] using congrArg (fun z : Word => z.getLsbD i) h

/-- Two words that agree on a mask agree on a part of it. -/
theorem and_congr_of_and_or {x y a b : Word} (h : x &&& (a ||| b) = y &&& (a ||| b)) :
    x &&& a = y &&& a := by
  refine BitVec.eq_of_getLsbD_eq fun i _ => ?_
  have hbit := congrArg (fun z : Word => z.getLsbD i) h
  simp only [BitVec.getLsbD_and, BitVec.getLsbD_or] at hbit ⊢
  cases ha : a.getLsbD i with
  | false => simp
  | true => simpa [ha] using hbit

/-- Settles O8: a row selects by the length the search answers (`and_mask_eq_value_iff_len`), and the
extraction sees no bit outside the row's mask and value field. -/
theorem runFormsAreDisjointAndCoverEveryWord : Obligations.RunFormsAreDisjointAndCoverEveryWord := by
  refine ⟨rfl, existsUnique_formRow_and_mask, ?_, ?_⟩
  · intro w avail r hr hsel
    have hlen := (and_mask_eq_value_iff_len hr w avail).1 hsel
    constructor
    · exact fun hne => (findTerm_eq_ok_iff_len ..).2 ⟨hlen, hne⟩
    · exact fun h0 => (findTerm_len_eq_zero_iff_malformed ..).1 (hlen.trans h0)
  · intro w w' avail r hr hsel hagree value len
    have hmask : w' &&& r.mask = w &&& r.mask := and_congr_of_and_or hagree
    have hfield : w' &&& maskByTable r.len = w &&& maskByTable r.len :=
      and_congr_of_and_or (by rwa [BitVec.or_comm])
    have hext : extract w r.len = extract w' r.len := pext64_congr hfield.symm
    rw [decodeWord_eq_ok_iff, decodeWord_eq_ok_iff, findTerm_eq_ok_iff_len, findTerm_eq_ok_iff_len,
      (and_mask_eq_value_iff_len hr w avail).1 hsel,
      (and_mask_eq_value_iff_len hr w' avail).1 (hmask.trans hsel)]
    exact and_congr_right fun ⟨hlen, _⟩ => by rw [← hlen, hext]

end Sys2Proof.Machine

/-! PROOF. Encoding and decoding (30_encoding.md R91, R93, R104): a run is its T bits and its payload
groups, so each is read back from the other. -/

namespace Sys2Proof

open Machine

/-! The bytes of a run (30_encoding.md R91). -/

@[simp] theorem getLsbD_contByte_seven (p : Payload) : (contByte p).getLsbD 7 = false := by
  simp [contByte]

@[simp] theorem getLsbD_termByte_seven (p : Payload) : (termByte p).getLsbD 7 = true := by
  simp [termByte]

@[simp] theorem setWidth_contByte (p : Payload) : (contByte p).setWidth 7 = p := by
  simp [contByte]

@[simp] theorem setWidth_termByte (p : Payload) : (termByte p).setWidth 7 = p := by
  rw [termByte, BitVec.setWidth_or]
  simp

/-- A byte with T = 0 is the continuation byte of its payload. -/
theorem contByte_setWidth {b : Byte} (h : b.getLsbD 7 = false) : contByte (b.setWidth 7) = b := by
  revert b; decide

/-- A byte with T = 1 is the terminator byte of its payload. -/
theorem termByte_setWidth {b : Byte} (h : b.getLsbD 7 = true) : termByte (b.setWidth 7) = b := by
  revert b; decide

/-! The lanes of an assembled word (20_memory.md R63). -/

/-- The T bit of a lane is the T bit of its byte. -/
theorem getLsbD_assemble8_lane (bs : List Byte) {i : Nat} (hi : i < 8) :
    (assemble8 bs).getLsbD (8 * i + 7) = (bs.getD i 0).getLsbD 7 := by
  rw [getLsbD_assemble8, decide_eq_true (by omega), Bool.true_and,
    show (8 * i + 7) / 8 = i by omega, show (8 * i + 7) % 8 = 7 by omega]

/-- The payload group of a lane is the payload of its byte. -/
theorem group_assemble8 (bs : List Byte) {i : Nat} (hi : i < 8) :
    group (assemble8 bs) i = (bs.getD i 0).setWidth 7 := by
  refine BitVec.eq_of_getLsbD_eq fun j hj => ?_
  rw [getLsbD_group, getLsbD_assemble8, BitVec.getLsbD_setWidth,
    show (8 * i + j) / 8 = i by omega, show (8 * i + j) % 8 = j by omega,
    decide_eq_true (show 8 * i + j < 64 by omega), Bool.true_and]

/-- Only the first eight bytes are assembled. -/
theorem assemble8_take (bs : List Byte) : assemble8 (bs.take 8) = assemble8 bs := by
  refine BitVec.eq_of_getLsbD_eq fun j hj => ?_
  rw [getLsbD_assemble8, getLsbD_assemble8, List.getD_eq_getElem?_getD, List.getD_eq_getElem?_getD,
    List.getElem?_take_of_lt (by omega)]

theorem decode_stream (bs : List Byte) : decode .stream bs =
    .ok (decodeRun (assemble8 bs), bs.drop (decodeRun (assemble8 bs)).size) := by
  rw [decode, WORD_BYTES_eq, assemble8_take]

/-- Lanes with T = 0 hold the continuation bytes of their payload groups. -/
theorem map_contByte_group_assemble8 {bs : List Byte} {n : Nat} (hn : n ≤ bs.length) (h8 : n ≤ 8)
    (hT : ∀ i, i < n → (assemble8 bs).getLsbD (8 * i + 7) = false) :
    (List.range n).map (fun i => contByte (group (assemble8 bs) i)) = bs.take n := by
  refine List.ext_getElem (by simpa using hn) fun i hi _ => ?_
  rw [List.length_map, List.length_range] at hi
  have hi8 : i < 8 := by omega
  rw [List.getElem_map, List.getElem_range, List.getElem_take, group_assemble8 bs hi8,
    contByte_setWidth (by rw [← getLsbD_assemble8_lane bs hi8, hT i hi]),
    List.getD_eq_getElem _ _ (by omega)]

/-! The instruction that names a run. -/

/-- The instruction names the run with the groups `ps` in its continuation bytes and `p` in its
terminator (30_encoding.md R93, R97; log 7). -/
inductive IsRun : Instr → List Payload → Payload → Prop where
  | sentinel : IsRun .sentinel [] 0
  | fui1 {p0 : Payload} (h : p0 ≠ 0) : IsRun (.fui1 p0) [] p0
  | fui2 (p0 p1 : Payload) : IsRun (.fui2 p0 p1) [p0] p1
  | fui3 (p0 p1 p2 : Payload) : IsRun (.fui3 p0 p1 p2) [p0, p1] p2
  | fui4 (p0 p1 p2 p3 : Payload) : IsRun (.fui4 p0 p1 p2 p3) [p0, p1, p2] p3
  | fui5 (p0 p1 p2 p3 p4 : Payload) : IsRun (.fui5 p0 p1 p2 p3 p4) [p0, p1, p2, p3] p4
  | fui6 (p0 p1 p2 p3 p4 p5 : Payload) :
    IsRun (.fui6 p0 p1 p2 p3 p4 p5) [p0, p1, p2, p3, p4] p5

namespace IsRun

variable {i j : Instr} {ps : List Payload} {p : Payload}

theorem encode_eq (h : IsRun i ps p) : encode i = ps.map contByte ++ [termByte p] := by
  cases h <;> rfl

theorem size_eq (h : IsRun i ps p) : i.size = ps.length + 1 := by cases h <;> rfl

theorem level_eq (h : IsRun i ps p) : i.level = .stream := by cases h <;> rfl

theorem length_lt (h : IsRun i ps p) : ps.length < 6 := by cases h <;> simp

theorem wf (h : IsRun i ps p) : i.wf = true := by
  cases h with
  | fui1 h => exact bne_iff_ne.2 h
  | _ => rfl

/-- The groups determine the instruction. -/
theorem unique (hi : IsRun i ps p) (hj : IsRun j ps p) : i = j := by
  cases hi with
  | sentinel => cases hj with
    | sentinel => rfl
    | fui1 h => exact absurd rfl h
  | fui1 h => cases hj with
    | sentinel => exact absurd rfl h
    | fui1 => rfl
  | _ => cases hj; rfl

end IsRun

/-! The decoder by the length of the form. -/

theorem formLen_eq_succ_iff (w : Word) (n : Nat) : formLen w = n + 1 ↔
    n < 6 ∧ w.getLsbD (8 * n + 7) = true ∧ ∀ i, i < n → w.getLsbD (8 * i + 7) = false := by
  rw [formLen_eq w 0, findTerm_len_eq_succ_iff]

theorem formLen_eq_zero_iff (w : Word) :
    formLen w = 0 ↔ ∀ i, i < 6 → w.getLsbD (8 * i + 7) = false := by
  rw [formLen_eq w 0, findTerm_len_eq_zero_iff]

/-- The decoder's test for the sentinel: its one byte is a terminator with payload zero. -/
theorem and_FF_beq_80_iff (w : Word) :
    (w &&& 0xFF == 0x80) = true ↔ w.getLsbD 7 = true ∧ group w 0 = 0 := by
  have hmod : (w &&& 0xFF).toNat = w.toNat % 2 ^ 8 := by
    rw [BitVec.toNat_and]
    exact Nat.and_two_pow_sub_one_eq_mod w.toNat 8
  have hbit : w.getLsbD 7 = true ↔ w.toNat / 2 ^ 7 % 2 = 1 := by
    rw [← BitVec.testBit_toNat, Nat.testBit_eq_decide_div_mod_eq, decide_eq_true_eq]
  have hgroup : (group w 0).toNat = w.toNat % 2 ^ 7 := by
    simp [group, BitVec.extractLsb'_toNat]
  rw [beq_iff_eq, hbit, ← BitVec.toNat_inj, ← BitVec.toNat_inj, hmod, hgroup]
  show _ = 128 ↔ _ ∧ _ = 0
  omega

/-- A word with T = 0 in its first lane is not the sentinel's. -/
theorem and_FF_beq_80_eq_false {w : Word} (h : w.getLsbD 7 = false) :
    (w &&& 0xFF == 0x80) = false := by
  rw [Bool.eq_false_iff, Ne, and_FF_beq_80_iff, h]
  simp

/-- A word whose first T = 1 is in lane `n` decodes to the run of its first `n + 1` groups. -/
theorem decodeRun_isRun {w : Word} {n : Nat} (h : formLen w = n + 1) :
    IsRun (decodeRun w) ((List.range n).map (group w)) (group w n) := by
  obtain ⟨h6, hT, hlow⟩ := (formLen_eq_succ_iff w n).1 h
  unfold decodeRun
  rw [h]
  cases n with
  | zero =>
    by_cases hg : group w 0 = 0
    · rw [if_pos ((and_FF_beq_80_iff w).2 ⟨hT, hg⟩), hg]
      exact .sentinel
    · rw [if_neg fun hs => hg ((and_FF_beq_80_iff w).1 hs).2]
      exact .fui1 hg
  | succ n =>
    rw [and_FF_beq_80_eq_false (hlow 0 (Nat.succ_pos n))]
    have hn : n < 5 := by omega
    interval_cases n <;> constructor

/-- A word without a T = 1 in its first six lanes decodes to the malformed row. -/
theorem decodeRun_malformed {w : Word} (h : formLen w = 0) :
    decodeRun w = .malformed (group w 0) (group w 1) (group w 2) (group w 3) (group w 4)
      (group w 5) := by
  unfold decodeRun
  rw [h, and_FF_beq_80_eq_false ((formLen_eq_zero_iff w).1 h 0 (by omega))]
  rfl

/-! Decoding an encoding. -/

/-- The continuation bytes at the head of a list. -/
theorem getD_map_contByte_append {ps : List Payload} (bs : List Byte) {i : Nat}
    (hi : i < ps.length) : (ps.map contByte ++ bs).getD i 0 = contByte ps[i] := by
  rw [List.getD_append _ _ _ _ (by simpa using hi), List.getD_eq_getElem _ _ (by simpa using hi),
    List.getElem_map]

/-- The byte after them. -/
theorem getD_map_contByte_append_cons (ps : List Payload) (b : Byte) (bs : List Byte) :
    (ps.map contByte ++ b :: bs).getD ps.length 0 = b := by
  rw [List.getD_append_right _ _ _ _ (by simp), List.length_map, Nat.sub_self, List.getD_cons_zero]

/-- The groups of the continuation bytes are read back. -/
theorem map_group_assemble8_contBytes {ps : List Payload} (h8 : ps.length ≤ 8) (bs : List Byte) :
    (List.range ps.length).map (group (assemble8 (ps.map contByte ++ bs))) = ps := by
  refine List.ext_getElem (by simp) fun i _ hi => ?_
  rw [List.getElem_map, List.getElem_range, group_assemble8 _ (by omega),
    getD_map_contByte_append _ hi, setWidth_contByte]

section Run

variable {ps : List Payload} (p : Payload) (rest : List Byte) (h6 : ps.length < 6)

include h6

/-- The first T = 1 of a run's bytes is in its last byte. -/
theorem formLen_assemble8_run :
    formLen (assemble8 (ps.map contByte ++ termByte p :: rest)) = ps.length + 1 := by
  refine (formLen_eq_succ_iff ..).2 ⟨h6, ?_, fun i hi => ?_⟩
  · rw [getLsbD_assemble8_lane _ (by omega), getD_map_contByte_append_cons, getLsbD_termByte_seven]
  · rw [getLsbD_assemble8_lane _ (by omega), getD_map_contByte_append _ hi, getLsbD_contByte_seven]

/-- The group of the terminator is read back. -/
theorem group_assemble8_termByte :
    group (assemble8 (ps.map contByte ++ termByte p :: rest)) ps.length = p := by
  rw [group_assemble8 _ (by omega), getD_map_contByte_append_cons, setWidth_termByte]

theorem decodeRun_assemble8_run :
    IsRun (decodeRun (assemble8 (ps.map contByte ++ termByte p :: rest))) ps p := by
  have h := decodeRun_isRun (formLen_assemble8_run p rest h6)
  rwa [map_group_assemble8_contBytes (by omega), group_assemble8_termByte p rest h6] at h

end Run

/-- Decoding the encoding of a run. -/
theorem IsRun.decode_encode {i : Instr} {ps : List Payload} {p : Payload} (h : IsRun i ps p)
    (rest : List Byte) : decode i.level (encode i ++ rest) = .ok (i, rest) := by
  have hbytes : encode i ++ rest = ps.map contByte ++ termByte p :: rest := by
    rw [h.encode_eq, List.append_assoc, List.singleton_append]
  have hrun : decodeRun (assemble8 (encode i ++ rest)) = i := by
    rw [hbytes]
    exact (decodeRun_assemble8_run p rest h.length_lt).unique h
  have hsize : (encode i).length = i.size := by rw [h.encode_eq, h.size_eq]; simp
  rw [h.level_eq, decode_stream, hrun, List.drop_left' hsize]

/-- Decoding six continuation bytes. -/
theorem decode_encode_malformed (p0 p1 p2 p3 p4 p5 : Payload) (rest : List Byte) :
    decode .stream (encode (.malformed p0 p1 p2 p3 p4 p5) ++ rest) =
      .ok (.malformed p0 p1 p2 p3 p4 p5, rest) := by
  have hencode : encode (.malformed p0 p1 p2 p3 p4 p5) =
    [p0, p1, p2, p3, p4, p5].map contByte := rfl
  rw [decode_stream, hencode]
  set w := assemble8 ([p0, p1, p2, p3, p4, p5].map contByte ++ rest)
  have h0 : formLen w = 0 := by
    refine (formLen_eq_zero_iff w).2 fun i hi => ?_
    rw [getLsbD_assemble8_lane _ (by omega), getD_map_contByte_append _ hi, getLsbD_contByte_seven]
  have hgroups : [group w 0, group w 1, group w 2, group w 3, group w 4, group w 5] =
      [p0, p1, p2, p3, p4, p5] :=
    map_group_assemble8_contBytes (ps := [p0, p1, p2, p3, p4, p5]) (by simp) rest
  have hrun : decodeRun w = .malformed p0 p1 p2 p3 p4 p5 := by
    rw [decodeRun_malformed h0]
    simpa only [List.cons.injEq, and_true, Instr.malformed.injEq] using hgroups
  rw [hrun]
  rfl

/-- Decoding the byte of a command code. -/
theorem decode_command (c : BitVec 3) (rest : List Byte) :
    decode .command (c.setWidth 8 :: rest) = .ok (decodeCommand c, rest) := by
  have hc : (c.setWidth 8).toNat < 8 := by
    rw [BitVec.toNat_setWidth_of_le (by omega)]
    exact c.isLt
  rw [decode, if_pos hc, BitVec.setWidth_setWidth_of_le _ (by omega), BitVec.setWidth_eq]

theorem encode_decodeCommand (c : BitVec 3) : encode (decodeCommand c) = [c.setWidth 8] := by
  revert c; decide

theorem wf_decodeCommand (c : BitVec 3) : (decodeCommand c).wf = true := by
  revert c; decide

/-- Settles O6, by the instruction: a code of the command port, a run (`IsRun.decode_encode`), or six
continuation bytes. -/
theorem decodeOfEncodeGivesTheInstructionBack :
    Obligations.DecodeOfEncodeGivesTheInstructionBack := by
  intro i rest hwf
  cases i with
  | nop => exact decode_command 0 rest
  | decode => exact decode_command 1 rest
  | skip => exact decode_command 2 rest
  | bindD => exact decode_command 3 rest
  | reserved100 => exact decode_command 4 rest
  | reserved101 => exact decode_command 5 rest
  | reserved110 => exact decode_command 6 rest
  | bindB => exact decode_command 7 rest
  | sentinel => exact IsRun.sentinel.decode_encode rest
  | fui1 p0 => exact (IsRun.fui1 (bne_iff_ne.1 hwf)).decode_encode rest
  | fui2 p0 p1 => exact (IsRun.fui2 p0 p1).decode_encode rest
  | fui3 p0 p1 p2 => exact (IsRun.fui3 p0 p1 p2).decode_encode rest
  | fui4 p0 p1 p2 p3 => exact (IsRun.fui4 p0 p1 p2 p3).decode_encode rest
  | fui5 p0 p1 p2 p3 p4 => exact (IsRun.fui5 p0 p1 p2 p3 p4).decode_encode rest
  | fui6 p0 p1 p2 p3 p4 p5 => exact (IsRun.fui6 p0 p1 p2 p3 p4 p5).decode_encode rest
  | malformed p0 p1 p2 p3 p4 p5 => exact decode_encode_malformed p0 p1 p2 p3 p4 p5 rest

/-! Encoding what was decoded. -/

/-- The encoding of what a stream of bytes decodes to is the bytes it was decoded from. -/
theorem encode_decodeRun {bs : List Byte} (h : (decodeRun (assemble8 bs)).size ≤ bs.length) :
    encode (decodeRun (assemble8 bs)) = bs.take (decodeRun (assemble8 bs)).size := by
  cases hn : formLen (assemble8 bs) with
  | zero =>
    rw [decodeRun_malformed hn] at h ⊢
    exact map_contByte_group_assemble8 (n := 6) h (by omega) ((formLen_eq_zero_iff _).1 hn)
  | succ n =>
    have hrun := decodeRun_isRun hn
    obtain ⟨h6, hT, hlow⟩ := (formLen_eq_succ_iff _ n).1 hn
    rw [hrun.size_eq, List.length_map, List.length_range] at h ⊢
    have hlast : termByte (group (assemble8 bs) n) = bs[n] := by
      rw [getLsbD_assemble8_lane bs (by omega), List.getD_eq_getElem _ _ h] at hT
      rw [group_assemble8 bs (by omega), List.getD_eq_getElem _ _ h, termByte_setWidth hT]
    rw [hrun.encode_eq, List.map_map, hlast, List.take_succ_eq_append_getElem h]
    exact congrArg (· ++ [bs[n]]) (map_contByte_group_assemble8 (by omega) (by omega) hlow)

/-- What the decoder gives is well formed and of the stream level. -/
theorem decodeRun_wf_level (w : Word) :
    (decodeRun w).wf = true ∧ (decodeRun w).level = .stream := by
  cases hn : formLen w with
  | zero => rw [decodeRun_malformed hn]; exact ⟨rfl, rfl⟩
  | succ n => exact ⟨(decodeRun_isRun hn).wf, (decodeRun_isRun hn).level_eq⟩

/-- What a decode at the command level read: one byte that holds a code. -/
theorem decode_command_eq_ok {bs rest : List Byte} {i : Instr} (h : decode .command bs = .ok (i, rest)) :
    ∃ c : BitVec 3, bs = c.setWidth 8 :: rest ∧ i = decodeCommand c := by
  cases bs with
  | nil => cases h
  | cons b bs =>
    rw [decode] at h
    split at h
    · next hb =>
      cases h
      refine ⟨b.setWidth 3, ?_, rfl⟩
      rw [BitVec.setWidth_setWidth_eq_self (by bv_omega)]
    · cases h

/-- Settles O7, by the level: `encode_decodeRun` and `encode_decodeCommand`. -/
theorem encodeOfDecodeGivesTheBytesBack : Obligations.EncodeOfDecodeGivesTheBytesBack := by
  intro l bs rest i h
  cases l with
  | command =>
    obtain ⟨c, rfl, rfl⟩ := decode_command_eq_ok h
    exact ⟨wf_decodeCommand c, decodeCommand_level c, fun _ => by rw [encode_decodeCommand]; rfl⟩
  | stream =>
    rw [decode_stream] at h
    cases h
    obtain ⟨hwf, hlevel⟩ := decodeRun_wf_level (assemble8 bs)
    exact ⟨hwf, hlevel, fun hsize => by rw [encode_decodeRun hsize, List.take_append_drop]⟩

/-- Settles O5: each word evaluated by the decoder. -/
theorem writtenOutWordsDecodeAsTheSpecSays : Obligations.WrittenOutWordsDecodeAsTheSpecSays := by
  refine ⟨?_, ?_, ?_, ?_, ?_, ?_, ?_, ?_⟩ <;> decide

end Sys2Proof

/-! PROOF. The value of a run (30_encoding.md R94): the extraction packs the payload groups of the run's
lanes. -/

namespace Sys2Proof.Machine

/-- Packing a longer list of bits: the later bits stand above the earlier ones. -/
theorem packBits_append (a b : List Bool) :
    packBits (a ++ b) = packBits a + 2 ^ a.length * packBits b := by
  induction a with
  | nil => simp
  | cons x a ih =>
    rw [List.cons_append, packBits_cons, packBits_cons, ih, Nat.bit_val, Nat.bit_val,
      List.length_cons, Nat.pow_succ]
    ring

/-- The bit positions of the payload groups of the first `n` lanes, lowest first. -/
def payloadBits (n : Nat) : List Nat :=
  (List.range n).flatMap fun i => (List.range 7).map fun j => 8 * i + j

/-- The table's mask of a length selects the payload groups of its lanes (10_state.md R37). -/
theorem filter_maskByTable {len : Nat} (h6 : len ≤ 6) :
    ((List.range 64).filter fun i => (maskByTable len).getLsbD i) = payloadBits len := by
  have : ∀ len : Fin 7,
      ((List.range 64).filter fun i => (maskByTable len).getLsbD i) = payloadBits len := by decide
  exact this ⟨len, by omega⟩

/-- The bits of a payload group, packed, are the group. -/
theorem packBits_group (w : Word) (i : Nat) :
    packBits ((List.range 7).map fun j => w.getLsbD (8 * i + j)) = (group w i).toNat := by
  refine Nat.eq_of_testBit_eq fun j => ?_
  rw [testBit_packBits, BitVec.testBit_toNat, getLsbD_group]
  by_cases hj : j < 7 <;> simp [hj]

/-- Packing the payload bits of some lanes gives the value of their groups. -/
theorem packBits_groups (w : Word) (is : List Nat) :
    packBits ((is.flatMap fun i => (List.range 7).map fun j => 8 * i + j).map fun i => w.getLsbD i) =
      runValue (is.map (group w)) := by
  induction is with
  | nil => rfl
  | cons i is ih =>
    rw [List.flatMap_cons, List.map_append, packBits_append, ih, List.map_map, List.length_map,
      List.length_range, List.map_cons, runValue, ← packBits_group]
    rfl

/-- The extraction is the value of the payload groups of its lanes (40_codec.md R127). -/
theorem extract_eq_runValue (w : Word) {len : Nat} (h6 : len ≤ 6) :
    extract w len = runValue ((List.range len).map (group w)) := by
  rw [extract, pext64_eq_packBits, filter_maskByTable h6, payloadBits, packBits_groups]

/-- The value of a run as the sum of 30_encoding.md R94. -/
theorem runValue_eq_sum (ps : List Payload) :
    runValue ps = ∑ i ∈ Finset.range ps.length, (ps.getD i 0).toNat * 2 ^ (7 * i) := by
  induction ps with
  | nil => rfl
  | cons p ps ih =>
    rw [runValue, ih, List.length_cons, Finset.sum_range_succ', Finset.mul_sum, Nat.add_comm]
    congr 1
    · refine Finset.sum_congr rfl fun i _ => ?_
      rw [List.getD_cons_succ]
      ring
    · simp

/-- Settles O20: the terminator search finds the run's last byte, and the groups of its lanes are the
run's. -/
theorem everyRunDecodesToTheSumOfItsGroups : Obligations.EveryRunDecodesToTheSumOfItsGroups := by
  rintro ps p rest bs h6 rfl -
  rw [List.append_assoc, List.singleton_append]
  set bs := ps.map contByte ++ termByte p :: rest
  have hlen : (ps ++ [p]).length = ps.length + 1 := List.length_append
  have hfound : findTerm (assemble8 bs) bs.length = .ok (ps.length + 1) := by
    rw [findTerm_eq_ok_iff_len, ← formLen_eq]
    exact ⟨formLen_assemble8_run p rest h6, Nat.succ_ne_zero _⟩
  have hvalue : extract (assemble8 bs) (ps.length + 1) = runValue (ps ++ [p]) := by
    rw [extract_eq_runValue _ h6, List.range_succ, List.map_append,
      map_group_assemble8_contBytes (by omega), List.map_singleton,
      group_assemble8_termByte p rest h6]
  refine ⟨runValue (ps ++ [p]), ?_, ?_, ?_⟩
  · exact (decodeWord_eq_ok_iff ..).2 ⟨hfound, hvalue.symm⟩
  · rw [runValue_eq_sum, hlen]
  · rw [← hlen]
    exact runValue_lt _

end Sys2Proof.Machine

/-! PROOF. Runs at the level of the machine (30_encoding.md R94, R100, 41_reader_ops.md R154 to R156): a
fetch sees the bytes ahead of the cursor in either form. -/

namespace Sys2Proof.Machine

@[simp] theorem refill_bytesAhead (s : State) : (refill s).bytesAhead = s.bytesAhead := by
  simp [State.bytesAhead, srcRead]

/-- A buffered fetch sees the bytes ahead if the window it reads holds its copy and reaches eight bytes
past the cursor, or the true end. -/
theorem fetch8Buffered_eq_of_window {s u : State} (hu : (if needRefresh s then refill s else s) = u)
    (hw : u.WindowOk) (hbase : u.wbase ≤ u.cursor ∨ u.srcLen ≤ u.cursor)
    (hend : min 8 (u.wend - u.cursor) = min 8 (u.srcLen - u.cursor)) :
    (fetch8Buffered s).word = assemble8 u.bytesAhead ∧
      (fetch8Buffered s).avail = u.bytesAhead.length := by
  have hread : u.win.readList (u.cursor - u.wbase) (min 8 (u.wend - u.cursor)) = u.bytesAhead := by
    rw [State.bytesAhead, srcRead, WORD_BYTES_eq, hend]
    refine Memory.readList_congr fun i hi => ?_
    rw [hw.copy _ (by omega), show u.wbase + (u.cursor - u.wbase + i) = u.cursor + i by omega]
  unfold fetch8Buffered
  rw [hu, bytesAhead_length, ← hread, ← hend]
  exact ⟨rfl, rfl⟩

/-- A fetch of a legal, bound reader sees the bytes ahead, in either form (41_reader_ops.md R156). -/
theorem State.Legal.fetch8_eq {s : State} (h : s.Legal) (hb : s.status.bound = true) :
    (fetch8 s).word = assemble8 s.bytesAhead ∧ (fetch8 s).avail = s.bytesAhead.length := by
  unfold fetch8
  cases hm : s.status.mode with
  | false => rw [fetch8Direct_eq]; exact ⟨rfl, rfl⟩
  | true =>
    cases hn : needRefresh s with
    | true =>
      have hw := s.cfg.w_ge
      rw [← refill_bytesAhead]
      refine fetch8Buffered_eq_of_window (by rw [hn]; rfl) (refill_windowOk h.memories.win) ?_ ?_
      · rw [refill_wbase, refill_cursor, refill_srcLen]
        omega
      · rw [refill_wend, refill_cursor, refill_srcLen]
        omega
    | false =>
      have hwin := h.window hb hm
      have hend := hwin.end_le_len
      have hin : ¬ (s.cursor < s.wbase ∨ s.wend < s.cursor + 8) := by
        rw [← needRefresh_iff, hn]
        exact Bool.false_ne_true
      exact fetch8Buffered_eq_of_window (by rw [hn]; rfl) hwin (by omega) (by omega)

theorem State.Legal.fetch8_avail {s : State} (h : s.Legal) (hb : s.status.bound = true) :
    (fetch8 s).avail = min 8 (s.srcLen - s.cursor) := by
  rw [(h.fetch8_eq hb).2, bytesAhead_length]

/-! The runs named by the instruction (log 6). -/

/-- A completed DECODE after a fetch, as the host sees it. -/
theorem nextWith_completeDecode (s : State) (value len : Nat) :
    NextWith s (.next (completeDecode value len (fetch8 s).after)) (s.visible.delivered value len)
      true :=
  ⟨_, rfl, by simp [State.visible, Visible.delivered, Status.afterDecode], by simp,
    by simp [State.visible, Visible.delivered]⟩

/-- A fault after a fetch, as the host sees it. -/
theorem nextWith_raise (s : State) (c : Cause) :
    NextWith s (.next (raise c (fetch8 s).after)) (s.visible.faulted c) false :=
  ⟨_, rfl, by simp [State.visible, Visible.faulted], by simp,
    by simp [State.visible, Visible.faulted]⟩

/-- A run of at most eight bytes that ends at or below the true end delivers the value of its groups. -/
theorem State.Legal.consumeRun_delivers {s : State} (h : s.Legal) (hr : s.Ready) {ps : List Payload}
    {value : Nat} (h8 : ps.length ≤ 8) (hn : ps.length ≤ s.srcLen - s.cursor)
    (hv : runValue ps = value) :
    NextWith s (.next (Machine.consumeRun ps s)) (s.visible.delivered value ps.length) true := by
  have havail : ps.length ≤ (fetch8 s).avail := by
    rw [h.fetch8_avail hr.bound]
    omega
  rw [Machine.consumeRun, dataCommand_of_ready hr, if_pos havail, hv]
  exact nextWith_completeDecode s _ _

/-- Settles O28: each run's value is `runValue` of its groups. -/
theorem shortRunsDeliverTheirValue : Obligations.ShortRunsDeliverTheirValue := by
  rintro s p0 p1 p2 h hr n rfl
  refine ⟨fun hn => ?_, fun hn => ?_, fun hn => ?_, fun hn => ?_⟩
  · exact h.consumeRun_delivers hr (ps := [0]) (by simp) hn rfl
  · exact h.consumeRun_delivers hr (ps := [p0]) (by simp) hn rfl
  · exact h.consumeRun_delivers hr (ps := [p0, p1]) (by simp) hn (by simp only [runValue]; omega)
  · exact h.consumeRun_delivers hr (ps := [p0, p1, p2]) (by simp) hn (by simp only [runValue]; omega)

/-- Settles O29, as O28. -/
theorem longRunsDeliverTheirValue : Obligations.LongRunsDeliverTheirValue := by
  rintro s p0 p1 p2 p3 p4 p5 h hr n rfl
  refine ⟨fun hn => ?_, fun hn => ?_, fun hn => ?_⟩
  · exact h.consumeRun_delivers hr (ps := [p0, p1, p2, p3]) (by simp) hn
      (by simp only [runValue]; omega)
  · exact h.consumeRun_delivers hr (ps := [p0, p1, p2, p3, p4]) (by simp) hn
      (by simp only [runValue]; omega)
  · exact h.consumeRun_delivers hr (ps := [p0, p1, p2, p3, p4, p5]) (by simp) hn
      (by simp only [runValue]; omega)

/-- Settles O30: six bytes are available to the fetch exactly when six are left. -/
theorem malformedRunRaisesTheCauseAvailDecides :
    Obligations.MalformedRunRaisesTheCauseAvailDecides := by
  intro s p0 p1 p2 p3 p4 p5 h hr
  have havail : MAX_LEN ≤ (fetch8 s).avail ↔ 6 ≤ s.srcLen - s.cursor := by
    rw [h.fetch8_avail hr.bound, MAX_LEN_eq]
    omega
  show NextWith s (.next (meetMalformed s)) _ _
  simp only [meetMalformed, dataCommand_of_ready hr, havail]
  exact nextWith_raise s _

/-! The malformed inputs (30_encoding.md R100). -/

/-- Which malformed input a search of assembled bytes answers: a T = 1 above the first six lanes is
among the bytes, so six of them are there. -/
theorem findTerm_assemble8_sub {bs : List Byte} {sub : Malformed}
    (h : findTerm (assemble8 bs) bs.length = .malformed sub) :
    sub = if 6 ≤ bs.length then .overlong else .truncated := by
  unfold findTerm at h
  split at h
  · next p hp =>
    split at h
    · cases h
    · next hlane =>
      cases h
      have hset := ((ctz64_eq_some_iff _ p).1 hp).2.1
      rw [getLsbD_highBits, Bool.and_eq_true, getLsbD_assemble8] at hset
      rw [MAX_LEN_eq] at hlane
      by_cases hlen : 6 ≤ bs.length
      · rw [if_pos hlen]
      · rw [List.getD_eq_default _ _ (by omega)] at hset
        simp at hset
  · rw [MAX_LEN_eq] at h
    split at h <;> cases h
    · next hlen => rw [if_pos hlen]
    · next hlen => rw [if_neg hlen]

/-- Assembled bytes are malformed exactly where none of the first six of them has T = 1. -/
theorem findTerm_assemble8_eq_malformed_iff (bs : List Byte) (sub : Malformed) :
    findTerm (assemble8 bs) bs.length = .malformed sub ↔
      (∀ k, k < min 6 bs.length → (bs.getD k 0).getLsbD 7 = false) ∧
      sub = if 6 ≤ bs.length then .overlong else .truncated := by
  have hlanes : (∃ sub, findTerm (assemble8 bs) bs.length = .malformed sub) ↔
      ∀ k, k < min 6 bs.length → (bs.getD k 0).getLsbD 7 = false := by
    rw [← findTerm_len_eq_zero_iff_malformed, findTerm_len_eq_zero_iff]
    constructor
    · intro h k hk
      rw [← getLsbD_assemble8_lane bs (by omega), h k (by omega)]
    · intro h k hk
      rw [getLsbD_assemble8_lane bs (by omega)]
      by_cases hlen : k < bs.length
      · exact h k (by omega)
      · rw [List.getD_eq_default _ _ (by omega)]
        rfl
  rw [← hlanes]
  constructor
  · exact fun h => ⟨⟨sub, h⟩, findTerm_assemble8_sub h⟩
  · rintro ⟨⟨sub', h⟩, rfl⟩
    rwa [findTerm_assemble8_sub h] at h

/-- A search at the cursor is malformed exactly where none of the first six bytes left has T = 1. -/
theorem findTerm_bytesAhead_eq_malformed_iff (s : State) (sub : Malformed) :
    findTerm (assemble8 s.bytesAhead) s.bytesAhead.length = .malformed sub ↔
      (∀ k, k < min 6 (s.srcLen - s.cursor) → (s.src.read (s.cursor + k)).getLsbD 7 = false) ∧
      sub = if 6 ≤ s.srcLen - s.cursor then .overlong else .truncated := by
  have hlen := bytesAhead_length s
  have hmin : min 6 s.bytesAhead.length = min 6 (s.srcLen - s.cursor) := by omega
  have h6 : 6 ≤ s.bytesAhead.length ↔ 6 ≤ s.srcLen - s.cursor := by omega
  rw [findTerm_assemble8_eq_malformed_iff, hmin]
  simp only [h6]
  refine and_congr_left fun _ => forall₂_congr fun k hk => ?_
  rw [bytesAhead_getD s (by omega)]

theorem Malformed.cause_inj {a b : Malformed} : a.cause = b.cause ↔ a = b := by
  cases a <;> cases b <;> decide

/-- Whether a DECODE or SKIP ends with a fault, and with which, is decided by its terminator search. -/
theorem exec_search_result {i : Instr} {s t : State} (hr : s.Ready) (hi : i = .decode ∨ i = .skip)
    (h : exec i s = .next t) :
    (∃ n, findTerm (fetch8 s).word (fetch8 s).avail = .ok n ∧ t.cause = s.cause ∧
      t.status.fault = false) ∨
    (∃ sub, findTerm (fetch8 s).word (fetch8 s).avail = .malformed sub ∧ t.cause = sub.cause ∧
      t.status.fault = true) := by
  rcases hi with rfl | rfl
  · obtain rfl : dataCommand s finishDecode = t := Host.Outcome.next.inj h
    rw [dataCommand_of_ready hr]
    rcases finishDecode_cases (fetch8 s).word (fetch8 s).avail (fetch8 s).after with
      ⟨v, n, hd, heq⟩ | ⟨sub, hd, heq⟩ <;> rw [heq]
    · exact .inl ⟨n, ((decodeWord_eq_ok_iff ..).1 hd).1, by simp, by simp [hr.noFault]⟩
    · exact .inr ⟨sub, (decodeWord_eq_malformed_iff ..).1 hd, rfl, rfl⟩
  · obtain rfl : dataCommand s finishSkip = t := Host.Outcome.next.inj h
    rw [dataCommand_of_ready hr]
    rcases finishSkip_cases (fetch8 s).word (fetch8 s).avail (fetch8 s).after with
      ⟨n, hd, heq⟩ | ⟨sub, hd, heq⟩ <;> rw [heq]
    · exact .inl ⟨n, hd, by simp, by simp [hr.noFault]⟩
    · exact .inr ⟨sub, hd, rfl, rfl⟩

/-- A ready reader has no cause latched (10_state.md R33). -/
theorem State.Legal.cause_eq_none {s : State} (h : s.Legal) (hr : s.Ready) : s.cause = .none := by
  by_contra hc
  have hf := h.registers.cause.2 hc
  rw [hr.noFault] at hf
  cases hf

/-- A DECODE or SKIP ends with the cause of a malformed input exactly where its search answers it. -/
theorem exec_cause_eq_iff {i : Instr} {s t : State} (hs : s.Legal) (hr : s.Ready)
    (hi : i = .decode ∨ i = .skip) (h : exec i s = .next t) (sub : Malformed) :
    t.cause = sub.cause ↔
      findTerm (assemble8 s.bytesAhead) s.bytesAhead.length = .malformed sub := by
  obtain ⟨hword, havail⟩ := hs.fetch8_eq hr.bound
  rw [← hword, ← havail]
  rcases exec_search_result hr hi h with ⟨n, hfound, hcause, _⟩ | ⟨sub', hfound, hcause, _⟩ <;>
    rw [hfound, hcause]
  · simpa [hs.cause_eq_none hr] using (cause_ne_none sub).symm
  · rw [Malformed.cause_inj, Found.malformed.injEq]

/-- Settles O45: the cause is that of the terminator search over the bytes left. -/
theorem malformedExactlyWithoutATerminator : Obligations.MalformedExactlyWithoutATerminator := by
  intro i s t hs hr hi h
  have hcause (sub : Malformed) := (exec_cause_eq_iff hs hr hi h sub).trans
    (findTerm_bytesAhead_eq_malformed_iff s sub)
  refine ⟨(hcause .overlong).trans ?_, (hcause .truncated).trans ?_, ?_⟩
  · by_cases h6 : 6 ≤ s.srcLen - s.cursor <;> simp [h6]
  · by_cases h6 : 6 ≤ s.srcLen - s.cursor
    · simp [h6]
    · have hlt : s.srcLen - s.cursor < 6 := Nat.not_le.1 h6
      rw [Nat.min_eq_right hlt.le, if_neg h6]
      simp [hlt]
  · rcases exec_search_result hr hi h with ⟨_, _, hc, hf⟩ | ⟨sub, _, hc, hf⟩ <;> rw [hf, hc]
    · simp [hs.cause_eq_none hr]
    · cases sub <;> simp [Malformed.cause]

end Sys2Proof.Machine

/-! PROOF. The pure decode functions (40_codec.md R121 to R129): the mask of a run, the extracted
value, and which lanes a decode looks at. -/

namespace Sys2Proof.Machine

/-! The terminator's place (40_codec.md R121, R122). -/

/-- What a terminator in a lane gives. -/
theorem findTerm_of_ctz64 {w : Word} {i : Nat} (h : ctz64 (highBits w) = some (8 * i + 7))
    (avail : Nat) :
    findTerm w avail = if i < 6 then .ok (i + 1) else .malformed .overlong := by
  simp only [findTerm, h, lane_div_add_one, MAX_LEN_eq, Nat.add_one_le_iff]

/-- Without a terminator in any lane `avail` decides. -/
theorem findTerm_of_highBits_eq_zero {w : Word} (h : highBits w = 0) (avail : Nat) :
    findTerm w avail = .malformed (if 6 ≤ avail then .overlong else .truncated) := by
  simp only [findTerm, (ctz64_eq_none_iff _).2 h, MAX_LEN_eq, apply_ite Found.malformed]

/-- Settles O11: the lowest set high bit is bit 7 of one of the eight lanes. -/
theorem terminatorPositionGivesTheLength : Obligations.TerminatorPositionGivesTheLength := by
  refine ⟨fun w avail p h => ?_, fun w avail h => findTerm_of_highBits_eq_zero h avail⟩
  obtain ⟨i, hi, rfl, _⟩ := (ctz64_highBits_eq_some_iff w p).1 h
  rw [findTerm_of_ctz64 h]
  interval_cases i <;> decide

/-! The mask (40_codec.md R123 to R125). -/

/-- The payload bits up to a lane's terminator are the table's mask of its length. -/
theorem lowBits_and_PAYLOAD7 {n : Nat} (h : n < 6) :
    lowBits (8 * n + 7) &&& PAYLOAD7 = maskByTable (n + 1) := by
  have : ∀ n : Fin 6, lowBits (8 * n + 7) &&& PAYLOAD7 = maskByTable (n + 1) := by decide
  exact this ⟨n, h⟩

/-- Settles O13: the lowest set high bit of a word with a run is that of the run's last lane. -/
theorem maskFormulationsAgree : Obligations.MaskFormulationsAgree := by
  intro w avail len h
  obtain ⟨n, rfl⟩ := Nat.exists_eq_add_of_le' (findTerm_ok_range h).1
  obtain ⟨hn, hT, hlow⟩ := (findTerm_eq_ok_succ_iff w avail n).1 h
  have hctz := (ctz64_highBits_eq_some_iff w _).2 ⟨n, by omega, rfl, hT, hlow⟩
  rw [maskByLowest, lowmask64_of_ctz64 hctz, Option.map_some, lowBits_and_PAYLOAD7 hn]

/-- The mask from the lowest set high bit gives the decode of the mask from the table. -/
theorem decodeWordByLowest_eq (w : Word) (avail : Nat) :
    decodeWordByLowest w avail = decodeWord w avail := by
  unfold decodeWordByLowest decodeWord
  cases h : findTerm w avail with
  | ok len => rw [maskFormulationsAgree w avail len h]; rfl
  | malformed sub => rfl

/-! The extraction (40_codec.md R126, R127, R133). -/

/-- Settles O14: the extraction is the value of the groups, and that is their sum. -/
theorem extractionIsTheSumOfPayloadGroups : Obligations.ExtractionIsTheSumOfPayloadGroups := by
  intro w len _ h6
  rw [extract_eq_runValue w h6, runValue_eq_sum, List.length_map, List.length_range]
  refine Finset.sum_congr rfl fun i hi => ?_
  rw [List.getD_eq_getElem _ _ (by simpa using hi), List.getElem_map, List.getElem_range, group]

/-- Settles O16: the value is extracted from `7 * len` bits, and a sum of zero groups is zero. -/
theorem decodedValueFitsItsLength : Obligations.DecodedValueFitsItsLength := by
  intro w avail value len h
  obtain ⟨hfound, rfl⟩ := (decodeWord_eq_ok_iff ..).1 h
  obtain ⟨h1, h6⟩ := findTerm_ok_range hfound
  refine ⟨h1, h6, extract_lt h6, Nat.pow_le_pow_right two_pos (Nat.mul_le_mul_left 7 h6),
    fun hzero => ?_⟩
  rw [extractionIsTheSumOfPayloadGroups w len h1 h6]
  refine Finset.sum_eq_zero fun i hi => ?_
  rw [hzero i (Finset.mem_range.1 hi)]
  exact Nat.zero_mul _

/-! Locality (40_codec.md R136). -/

/-- A bit of a lane. -/
theorem getLsbD_of_lane {w : Word} {i : Nat} {b : Byte} (h : w.extractLsb' (8 * i) 8 = b) {j : Nat}
    (hj : j < 8) : w.getLsbD (8 * i + j) = b.getLsbD j := by
  rw [← h, BitVec.getLsbD_extractLsb', decide_eq_true hj, Bool.true_and]

theorem group_of_lane {w w' : Word} {i : Nat}
    (h : w.extractLsb' (8 * i) 8 = w'.extractLsb' (8 * i) 8) : group w i = group w' i := by
  refine BitVec.eq_of_getLsbD_eq fun j hj => ?_
  rw [getLsbD_group, getLsbD_group, getLsbD_of_lane h (by omega),
    getLsbD_of_lane (w := w') rfl (by omega)]

/-- A decode that answers a length is the answer for every word with the same lanes of the run. -/
theorem decodeWord_eq_ok_of_lanes {w w' : Word} {avail v len : Nat}
    (h : decodeWord w avail = .ok v len)
    (hlanes : ∀ i, i < len → w.extractLsb' (8 * i) 8 = w'.extractLsb' (8 * i) 8) (avail' : Nat) :
    decodeWord w' avail' = .ok v len := by
  obtain ⟨hfound, rfl⟩ := (decodeWord_eq_ok_iff ..).1 h
  obtain ⟨h1, h6⟩ := findTerm_ok_range hfound
  have hT : ∀ i, i < len → w'.getLsbD (8 * i + 7) = w.getLsbD (8 * i + 7) := fun i hi => by
    rw [getLsbD_of_lane (hlanes i hi) (by omega), getLsbD_of_lane rfl (by omega)]
  have hext : extract w len = extract w' len := by
    rw [extract_eq_runValue w h6, extract_eq_runValue w' h6]
    exact congrArg runValue (List.map_congr_left fun i hi =>
      group_of_lane (hlanes i (List.mem_range.1 hi)))
  obtain ⟨_, _, hlast, hlow⟩ := (runEndsAtItsFirstTerminator w avail len).1 hfound
  refine (decodeWord_eq_ok_iff ..).2 ⟨(runEndsAtItsFirstTerminator w' avail' len).2 ?_, hext⟩
  exact ⟨h1, h6, (hT _ (by omega)).trans hlast, fun i hi => (hT i (by omega)).trans (hlow i hi)⟩

/-- With zero lanes at and above `avail`, `avail` alone decides which malformed input a search
answers. -/
theorem findTerm_sub_of_zero_lanes {w : Word} {avail : Nat} {sub : Malformed}
    (hzero : ∀ i, avail ≤ i → i < 8 → w.extractLsb' (8 * i) 8 = 0)
    (h : findTerm w avail = .malformed sub) :
    sub = if 6 ≤ avail then .overlong else .truncated := by
  cases hctz : ctz64 (highBits w) with
  | none =>
    rw [findTerm_of_highBits_eq_zero ((ctz64_eq_none_iff _).1 hctz), Found.malformed.injEq] at h
    exact h.symm
  | some p =>
    obtain ⟨i, hi, rfl, hT, _⟩ := (ctz64_highBits_eq_some_iff w p).1 hctz
    rw [findTerm_of_ctz64 hctz] at h
    have havail : i < avail := by
      by_contra hle
      rw [getLsbD_of_lane (hzero i (by omega) hi) (by omega)] at hT
      simp at hT
    split at h
    · cases h
    · rw [if_pos (by omega)]
      cases h
      rfl

/-- Settles O19: the two words agree on the first six lanes, so they have the same run, or none and
the malformed input that `avail` decides. -/
theorem decodeDependsOnLowLanesOnly : Obligations.DecodeDependsOnLowLanesOnly := by
  refine ⟨fun w w' avail hzero hlow => ?_, fun w w' avail avail' v len h hlanes =>
    decodeWord_eq_ok_of_lanes h hlanes avail'⟩
  have hlanes : ∀ i, i < 6 → w.extractLsb' (8 * i) 8 = w'.extractLsb' (8 * i) 8 := fun i hi => by
    by_cases ha : i < avail
    · exact hlow i (by omega)
    · obtain ⟨hw, hw'⟩ := hzero i (by omega) (by omega)
      rw [hw, hw']
  cases h : decodeWord w avail with
  | ok v len =>
    have h6 := (findTerm_ok_range ((decodeWord_eq_ok_iff ..).1 h).1).2
    exact (decodeWord_eq_ok_of_lanes h (fun i hi => hlanes i (hi.trans_le h6)) avail).symm
  | malformed sub =>
    cases h' : decodeWord w' avail with
    | ok v len =>
      have h6 := (findTerm_ok_range ((decodeWord_eq_ok_iff ..).1 h').1).2
      rw [decodeWord_eq_ok_of_lanes h' (fun i hi => (hlanes i (hi.trans_le h6)).symm) avail] at h
      cases h
    | malformed sub' =>
      rw [decodeWord_eq_malformed_iff] at h h'
      rw [findTerm_sub_of_zero_lanes (fun i ha hi => (hzero i ha hi).1) h,
        findTerm_sub_of_zero_lanes (fun i ha hi => (hzero i ha hi).2) h']

end Sys2Proof.Machine

/-! PROOF. The byte-at-a-time decode and the reference encoder (40_codec.md R131 to R135): both are
read over bytes that begin with a run, or have none. -/

namespace Sys2Proof.Machine

/-! The decode of a run's bytes. -/

/-- A run at the head of at most eight bytes decodes to its value and length. -/
theorem decodeWord_assemble8_run {ps : List Payload} (p : Payload) (rest : List Byte)
    (h6 : ps.length < 6) (h8 : (ps.map contByte ++ termByte p :: rest).length ≤ 8) :
    decodeWord (assemble8 (ps.map contByte ++ termByte p :: rest))
        (ps.map contByte ++ termByte p :: rest).length =
      .ok (runValue (ps ++ [p])) (ps.length + 1) := by
  obtain ⟨v, hv, hsum, _⟩ := everyRunDecodesToTheSumOfItsGroups ps p rest
    (ps.map contByte ++ termByte p :: rest) h6 (by simp) h8
  rw [hv, hsum, runValue_eq_sum, List.length_append, List.length_singleton]

/-- Bytes begin with a run of at most `n` bytes, or the first `n` of them have T = 0. -/
theorem exists_run_or_forall_contByte (n : Nat) (bs : List Byte) :
    (∃ (ps : List Payload) (p : Payload) (rest : List Byte),
      ps.length < n ∧ bs = ps.map contByte ++ termByte p :: rest) ∨
      ∀ k, k < min n bs.length → (bs.getD k 0).getLsbD 7 = false := by
  induction n generalizing bs with
  | zero => exact .inr (by simp)
  | succ n ih =>
    cases bs with
    | nil => exact .inr (by simp)
    | cons b bs =>
      cases hT : b.getLsbD 7 with
      | true => exact .inl ⟨[], b.setWidth 7, bs, by simp, by simp [termByte_setWidth hT]⟩
      | false =>
        rcases ih bs with ⟨ps, p, rest, hps, rfl⟩ | hcont
        · exact .inl ⟨b.setWidth 7 :: ps, p, rest, by simpa using hps,
            by simp [contByte_setWidth hT]⟩
        · refine .inr fun k hk => ?_
          cases k with
          | zero => exact hT
          | succ k =>
            rw [List.length_cons] at hk
            rw [List.getD_cons_succ]
            exact hcont k (by omega)

/-! The reference decode (40_codec.md R131). -/

/-- A group goes above the groups gathered so far. -/
theorem or_shiftLeft_group {value i : Nat} (h : value < 2 ^ (7 * i)) (p : Payload) :
    value ||| p.toNat <<< (7 * i) = value + 2 ^ (7 * i) * p.toNat := by
  rw [Nat.or_comm, ← Nat.shiftLeft_add_eq_or_of_lt h, Nat.shiftLeft_eq]
  ring

theorem contByte_and_7F (p : Payload) : (contByte p &&& 0x7F).toNat = p.toNat := by
  revert p; decide

theorem contByte_and_80 (p : Payload) : (contByte p &&& 0x80 != 0) = false := by
  revert p; decide

theorem termByte_and_7F (p : Payload) : (termByte p &&& 0x7F).toNat = p.toNat := by
  revert p; decide

theorem termByte_and_80 (p : Payload) : (termByte p &&& 0x80 != 0) = true := by
  revert p; decide

section Loop

variable {value i : Nat} (h : value < 2 ^ (7 * i)) (total fuel : Nat) (p : Payload) (bs : List Byte)

include h

/-- The loop goes on after a continuation byte. -/
theorem refDecodeLoop_contByte : refDecodeLoop total (fuel + 1) i value (contByte p :: bs) =
    refDecodeLoop total fuel (i + 1) (value + 2 ^ (7 * i) * p.toNat) bs := by
  rw [refDecodeLoop, contByte_and_7F, contByte_and_80, or_shiftLeft_group h]
  rfl

/-- The loop answers at a terminator. -/
theorem refDecodeLoop_termByte : refDecodeLoop total (fuel + 1) i value (termByte p :: bs) =
    .ok (value + 2 ^ (7 * i) * p.toNat) (i + 1) := by
  rw [refDecodeLoop, termByte_and_7F, termByte_and_80, or_shiftLeft_group h]
  rfl

/-- The value stays within the bits of the groups gathered. -/
theorem value_add_group_lt : value + 2 ^ (7 * i) * p.toNat < 2 ^ (7 * (i + 1)) := by
  have hp : p.toNat + 1 ≤ 2 ^ 7 := p.isLt
  calc value + 2 ^ (7 * i) * p.toNat
      < 2 ^ (7 * i) * (p.toNat + 1) := by rw [Nat.mul_succ]; omega
    _ ≤ 2 ^ (7 * i) * 2 ^ 7 := Nat.mul_le_mul_left _ hp
    _ = 2 ^ (7 * (i + 1)) := by rw [← Nat.pow_add]; rfl

end Loop

/-- The loop over a run adds the run's value above what it has gathered. -/
theorem refDecodeLoop_run {ps : List Payload} {value i fuel : Nat} (h : value < 2 ^ (7 * i))
    (hfuel : ps.length < fuel) (total : Nat) (p : Payload) (rest : List Byte) :
    refDecodeLoop total fuel i value (ps.map contByte ++ termByte p :: rest) =
      .ok (value + 2 ^ (7 * i) * runValue (ps ++ [p])) (i + ps.length + 1) := by
  induction ps generalizing value i fuel with
  | nil =>
    obtain ⟨fuel, rfl⟩ := Nat.exists_eq_add_of_lt hfuel
    simp [refDecodeLoop_termByte h, runValue]
  | cons q ps ih =>
    obtain ⟨fuel, rfl⟩ := Nat.exists_eq_succ_of_ne_zero (Nat.ne_zero_of_lt hfuel)
    rw [List.map_cons, List.cons_append, refDecodeLoop_contByte h,
      ih (value_add_group_lt h q) (by simpa using hfuel), List.cons_append, runValue,
      List.length_cons]
    congr 1
    · rw [show 7 * (i + 1) = 7 * i + 7 by omega, Nat.pow_add]
      ring
    · omega

/-- The loop at the end of the bytes or of the fuel is malformed, as the whole length decides. -/
theorem refDecodeLoop_end {fuel : Nat} {bs : List Byte} (h : fuel = 0 ∨ bs = [])
    (total i value : Nat) : refDecodeLoop total fuel i value bs =
      .malformed (if 6 ≤ total then .overlong else .truncated) := by
  rw [apply_ite Decoded.malformed]
  rcases h with rfl | rfl
  · cases bs <;> rfl
  · cases fuel <;> rfl

/-- The loop over bytes without a terminator is malformed, as the whole length decides. -/
theorem refDecodeLoop_malformed {fuel : Nat} {bs : List Byte}
    (hcont : ∀ k, k < min fuel bs.length → (bs.getD k 0).getLsbD 7 = false) {value i : Nat}
    (h : value < 2 ^ (7 * i)) (total : Nat) :
    refDecodeLoop total fuel i value bs =
      .malformed (if 6 ≤ total then .overlong else .truncated) := by
  induction fuel generalizing bs value i with
  | zero => exact refDecodeLoop_end (.inl rfl) ..
  | succ fuel ih =>
    cases bs with
    | nil => exact refDecodeLoop_end (.inr rfl) ..
    | cons b bs =>
      have hT : b.getLsbD 7 = false := hcont 0 (by simp)
      rw [← contByte_setWidth hT, refDecodeLoop_contByte h]
      exact ih (fun k hk => hcont (k + 1) (by simp; omega)) (value_add_group_lt h _)

/-- Settles O15: over bytes that begin with a run all three answer its value, over others the
malformed input that the number of bytes decides. -/
theorem threeDecodeStrategiesAgree : Obligations.ThreeDecodeStrategiesAgree := by
  intro bs h8
  rw [decodeWordByLowest_eq, and_self, refDecode]
  rcases exists_run_or_forall_contByte MAX_LEN bs with ⟨ps, p, rest, h6, rfl⟩ | hcont
  · rw [decodeWord_assemble8_run p rest h6 h8, refDecodeLoop_run (by simp) h6]
    simp
  · rw [refDecodeLoop_malformed hcont (by simp), decodeWord_eq_malformed_iff]
    exact (findTerm_assemble8_eq_malformed_iff bs _).2 ⟨hcont, rfl⟩

/-! The reference encoder (30_encoding.md R110). -/

theorem encLen_eq_none_iff (v : Nat) : encLen v = none ↔ 2 ^ 42 ≤ v := by
  unfold encLen
  split_ifs <;> simp only [false_iff, true_iff] <;> omega

/-- The reference length is defined exactly below `2^42`. -/
theorem lt_two_pow_42_iff_exists_encLen (v : Nat) : v < 2 ^ 42 ↔ ∃ n, encLen v = some n := by
  rw [← Nat.not_le, ← encLen_eq_none_iff, ← Option.ne_none_iff_exists']

/-- A reference length is 1 to 6, and its groups hold the value. -/
theorem encLen_range {v n : Nat} (h : encLen v = some n) : 1 ≤ n ∧ n ≤ 6 ∧ v < 2 ^ (7 * n) := by
  rcases (encLen_eq_some_iff v n).1 h with
    ⟨rfl, hv⟩ | ⟨rfl, _, hv⟩ | ⟨rfl, _, hv⟩ | ⟨rfl, _, hv⟩ | ⟨rfl, _, hv⟩ | ⟨rfl, _, hv⟩
  all_goals exact ⟨by decide, by decide, hv⟩

/-- Payload group `i` of a number. -/
def valueGroup (v i : Nat) : Payload := BitVec.ofNat 7 (v >>> (7 * i))

theorem valueGroup_succ (v i : Nat) : valueGroup v (i + 1) = valueGroup (v / 2 ^ 7) i := by
  rw [valueGroup, valueGroup, Nat.mul_succ, Nat.add_comm, Nat.shiftRight_add,
    Nat.shiftRight_eq_div_pow v 7]

/-- The value of a number's first `k` groups is the number, as far as it has `7 * k` bits. -/
theorem runValue_valueGroups (v k : Nat) :
    runValue ((List.range k).map (valueGroup v)) = v % 2 ^ (7 * k) := by
  induction k generalizing v with
  | zero => simp [runValue, Nat.mod_one]
  | succ k ih =>
    have hhead : (valueGroup v 0).toNat = v % 2 ^ 7 := BitVec.toNat_ofNat ..
    have htail : (List.range k).map (valueGroup v ∘ Nat.succ) =
      (List.range k).map (valueGroup (v / 2 ^ 7)) :=
      List.map_congr_left fun i _ => valueGroup_succ v i
    rw [List.range_succ_eq_map, List.map_cons, List.map_map, htail, runValue, hhead, ih,
      Nat.mul_succ, Nat.add_comm (7 * k), Nat.pow_add, Nat.mod_mul]

/-- The low seven bits of a number in a byte. -/
theorem ofNat_and_7F (x : Nat) : BitVec.ofNat 8 (x &&& 0x7F) = contByte (BitVec.ofNat 7 x) := by
  refine BitVec.eq_of_toNat_eq ?_
  rw [contByte, BitVec.toNat_setWidth_of_le (by omega), BitVec.toNat_ofNat, BitVec.toNat_ofNat,
    show 0x7F = 2 ^ 7 - 1 from rfl, Nat.and_two_pow_sub_one_eq_mod]
  omega

/-- A reference encoding is the run of its value's groups. -/
theorem encBytes_succ (v n : Nat) : encBytes v (n + 1) =
    ((List.range n).map (valueGroup v)).map contByte ++ [termByte (valueGroup v n)] := by
  simp only [encBytes, ofNat_and_7F, List.range_succ, List.map_append, List.map_map,
    List.map_singleton, if_true]
  congr 1
  · refine List.map_congr_left fun i hi => ?_
    have hne : i + 1 ≠ n + 1 := by have := List.mem_range.1 hi; omega
    rw [if_neg hne]
    rfl
  · rw [BitVec.or_comm]
    rfl

/-- Bytes that begin with the groups of a value decode to it, if the groups hold it. -/
theorem decodeWord_assemble8_encBytes {v n : Nat} (rest : List Byte) (h6 : n < 6)
    (hv : v < 2 ^ (7 * (n + 1))) (h8 : (encBytes v (n + 1) ++ rest).length ≤ 8) :
    decodeWord (assemble8 (encBytes v (n + 1) ++ rest)) (encBytes v (n + 1) ++ rest).length =
      .ok v (n + 1) := by
  rw [encBytes_succ, List.append_assoc, List.singleton_append] at h8 ⊢
  rw [decodeWord_assemble8_run _ _ (by simpa using h6) h8, ← List.map_singleton, ← List.map_append,
    ← List.range_succ, runValue_valueGroups, Nat.mod_eq_of_lt hv, List.length_map,
    List.length_range]

/-- Settles O17: a reference encoding is the run of its value's groups.  The run `00 80` decodes to
0, whose encoding is `80`. -/
theorem decodeOfReferenceEncodingIsTheValue : Obligations.DecodeOfReferenceEncodingIsTheValue := by
  refine ⟨fun v => ?_, ?_, [0x00, 0x80], [0x80], 0, 2, by decide⟩
  · rw [lt_two_pow_42_iff_exists_encLen, ← Option.ne_none_iff_exists', ← Option.ne_none_iff_exists',
      enc, Ne, Ne, Option.map_eq_none_iff]
  · rintro v e _ he h8 ⟨rest, rfl⟩
    obtain ⟨hlen, hbytes⟩ := (enc_eq_some_iff v e).1 he
    obtain ⟨h1, h6, hv⟩ := encLen_range hlen
    obtain ⟨n, hn⟩ := Nat.exists_eq_add_of_le' h1
    rw [hn] at hbytes hv
    subst hbytes
    rw [encBytes_length] at hlen h6 ⊢
    exact ⟨hlen, decodeWord_assemble8_encBytes rest (by omega) hv h8⟩

/-- Settles O18: by the six lines of the reference length. -/
theorem referenceLengthIsMonotone : Obligations.ReferenceLengthIsMonotone := by
  refine ⟨lt_two_pow_42_iff_exists_encLen, ?_, ?_, ?_, ?_, ⟨2 ^ 35, by decide⟩⟩
  · intro v v' n n' hle h h'
    rw [encLen_eq_some_iff] at h h'
    omega
  · intro v n h
    obtain ⟨h1, h6, _⟩ := encLen_range h
    exact ⟨h1, h6⟩
  · intro v n hv h
    rw [encLen_eq_some_iff] at h
    omega
  · intro k h1 h5
    refine ⟨2 ^ (7 * (k - 1)), Nat.pow_lt_pow_right (by omega) (by omega), ?_⟩
    interval_cases k <;> decide

end Sys2Proof.Machine

/-! PROOF. SKIP beside DECODE (40_codec.md R130, 41_reader_ops.md R155). -/

namespace Sys2Proof.Machine

/-- Two states agree on all that a DECODE and a SKIP of the same run leave alike. -/
structure SameProgress (t u : State) : Prop where
  cursor : u.cursor = t.cursor
  len : u.len = t.len
  cause : u.cause = t.cause
  fault : u.status.fault = t.status.fault
  wbase : u.wbase = t.wbase
  wend : u.wend = t.wend
  win : u.win = t.win
  requests : requests u.io = requests t.io

theorem SameProgress.refl (t : State) : SameProgress t t :=
  ⟨rfl, rfl, rfl, rfl, rfl, rfl, rfl, rfl⟩

/-- On the same fetched pair a SKIP makes the progress of a DECODE: both go by the same search. -/
theorem sameProgress_finish (w : Word) (a : Nat) (s : State) :
    SameProgress (finishDecode w a s) (finishSkip w a s) := by
  rcases finishDecode_cases w a s with ⟨v, n, hd, heq⟩ | ⟨sub, hd, heq⟩
  · have hskip : skipWord w a = .ok n := ((decodeWord_eq_ok_iff ..).1 hd).1
    rw [heq, finishSkip, hskip]
    constructor <;> simp
  · have hskip : skipWord w a = .malformed sub := (decodeWord_eq_malformed_iff ..).1 hd
    rw [heq, finishSkip, hskip]
    exact .refl _

/-- Commands that make the same progress on every fetched pair make it from any state. -/
theorem sameProgress_dataCommand {k k' : Word → Nat → State → State}
    (h : ∀ w a s, SameProgress (k w a s) (k' w a s)) (s : State) :
    SameProgress (dataCommand s k) (dataCommand s k') := by
  rcases dataCommand_cases s k with ⟨hf, heq⟩ | ⟨hf, hb, heq⟩ | ⟨hr, heq⟩
  · rw [heq, dataCommand_of_fault hf]
    exact .refl _
  · rw [heq, dataCommand_of_unbound hf hb]
    exact .refl _
  · rw [heq, dataCommand_of_ready hr]
    exact h ..

/-- Settles O26: `sameProgress_finish`; VALUE is not SKIP's to write. -/
theorem skipLeavesTheCursorDecodeWouldLeave : Obligations.SkipLeavesTheCursorDecodeWouldLeave := by
  intro s t u ht hu
  have hvalue : u.value = s.value := by
    by_contra hne
    exact absurd ((exec_commandWrites rfl hu).value hne) (by decide)
  obtain rfl : dataCommand s finishDecode = t := Host.Outcome.next.inj ht
  obtain rfl : dataCommand s finishSkip = u := Host.Outcome.next.inj hu
  obtain ⟨hcursor, hlen, hcause, hfault, hwbase, hwend, hwin, hrequests⟩ :=
    sameProgress_dataCommand sameProgress_finish s
  exact ⟨hcursor, hlen, hcause, hfault, hwbase, hwend, hwin, hrequests, hvalue⟩

end Sys2Proof.Machine

/-! PROOF. The reader's form (41_reader_ops.md R167): what the host sees of a step is what it sees
of the same step of a direct reader over the same source. -/

namespace Sys2Proof.Machine

/-! The direct twin of a state. -/

/-- The direct reader that looks to the host as this state does, with every BIND to come a BIND.D
and nothing but the responses on its ports. -/
def State.directTwin (s : State) : State :=
  { s with
    status := { s.status with mode := false }, wbase := 0, wend := 0, win := []
    io := (responses s.io).map .response, pending := s.pending.map HostAction.asDirect }

/-- The direct twin of the state an outcome goes on with. -/
def directTwinOutcome : Outcome → Outcome
  | .next t => .next t.directTwin
  | .fault r => .fault r
  | .refused r => .refused r

@[simp] theorem responses_map_response (rs : List Response) :
    responses (rs.map .response) = rs := by
  simp [responses, List.filterMap_map]

@[simp] theorem asDirect_asDirect (a : HostAction) : a.asDirect.asDirect = a.asDirect := by
  cases a with
  | command c | rstDuring c n => by_cases hc : c = 7#3 <;> simp [HostAction.asDirect, hc]
  | writeReg | readReg | fill | rst => rfl

@[simp] theorem asDirect_asBuffered (a : HostAction) : a.asBuffered.asDirect = a.asDirect := by
  cases a with
  | command c | rstDuring c n =>
    by_cases hc : c = 3#3 <;> simp [HostAction.asDirect, HostAction.asBuffered, hc]
  | writeReg | readReg | fill | rst => rfl

/-- Two states have one direct twin exactly where they are twins with the same responses. -/
theorem directTwin_eq_iff (s u : State) :
    s.directTwin = u.directTwin ↔ Twins s u ∧ responses s.io = responses u.io := by
  constructor
  · intro h
    have hcfg : s.directTwin.cfg = u.directTwin.cfg := congrArg _ h
    have hvisible : s.directTwin.visible = u.directTwin.visible := congrArg _ h
    have hsrc : s.directTwin.src = u.directTwin.src := congrArg _ h
    have hmark : s.directTwin.everFaulted = u.directTwin.everFaulted := congrArg _ h
    have hscript : s.directTwin.pending = u.directTwin.pending := congrArg _ h
    have hio : responses s.directTwin.io = responses u.directTwin.io := congrArg _ (congrArg _ h)
    exact ⟨⟨hcfg, hvisible, hsrc, hmark, hscript⟩, by simpa [State.directTwin] using hio⟩
  · rintro ⟨⟨hcfg, hvisible, hsrc, hmark, hscript⟩, hio⟩
    simp only [Visible.butMode, State.visible, Visible.mk.injEq] at hvisible
    simp [State.directTwin, *]

/-- Two outcomes are twins exactly where they have one direct twin. -/
theorem twinOutcomes_iff (a b : Outcome) :
    TwinOutcomes a b ↔ directTwinOutcome a = directTwinOutcome b := by
  cases a <;> cases b <;> simp [TwinOutcomes, directTwinOutcome, directTwin_eq_iff]

@[simp] theorem directTwin_directTwin (s : State) : s.directTwin.directTwin = s.directTwin := by
  simp [State.directTwin]

/-! The operations: each leaves the direct twin, or does the same on it. -/

@[simp] theorem refill_directTwin (s : State) : (refill s).directTwin = s.directTwin := by
  simp [State.directTwin]

@[simp] theorem fetch8_after_directTwin (s : State) :
    (fetch8 s).after.directTwin = s.directTwin := by
  simp [State.directTwin]

@[simp] theorem respond_directTwin (ok : Bool) (s : State) :
    (respond ok s).directTwin = respond ok s.directTwin := by
  simp [State.directTwin, respond, State.emit, State.responseWith]

@[simp] theorem construct_directTwin (buffered : Bool) (s : State) :
    (construct buffered s).directTwin = construct false s.directTwin := rfl

@[simp] theorem raise_directTwin (c : Cause) (s : State) :
    (raise c s).directTwin = raise c s.directTwin := respond_directTwin ..

theorem finishDecode_directTwin (w : Word) (a : Nat) (s : State) :
    (finishDecode w a s).directTwin = finishDecode w a s.directTwin := by
  unfold finishDecode
  split <;> exact respond_directTwin ..

theorem finishSkip_directTwin (w : Word) (a : Nat) (s : State) :
    (finishSkip w a s).directTwin = finishSkip w a s.directTwin := by
  unfold finishSkip
  split <;> exact respond_directTwin ..

theorem reservedCode_directTwin (s : State) :
    (reservedCode s).directTwin = reservedCode s.directTwin := by
  have hfault : s.directTwin.status.fault = s.status.fault := rfl
  unfold reservedCode unlessFaulted
  rw [hfault]
  split <;> exact respond_directTwin ..

/-- A fetch of the direct twin sees what a fetch of the legal, bound reader itself sees. -/
theorem fetch8_directTwin {s : State} (h : s.Legal) (hb : s.status.bound = true) :
    (fetch8 s.directTwin).word = (fetch8 s).word ∧
      (fetch8 s.directTwin).avail = (fetch8 s).avail := by
  obtain ⟨hword, havail⟩ := h.fetch8_eq hb
  have hdirect : fetch8 s.directTwin = fetch8Direct s.directTwin := rfl
  rw [hword, havail, hdirect, fetch8Direct_eq]
  exact ⟨rfl, rfl⟩

theorem dataCommand_directTwin {s : State} (h : s.Legal) {k : Word → Nat → State → State}
    (hk : ∀ w a (u : State), (k w a u).directTwin = k w a u.directTwin) :
    (dataCommand s k).directTwin = (dataCommand s.directTwin k).directTwin := by
  rcases dataCommand_cases s k with ⟨hf, heq⟩ | ⟨hf, hb, heq⟩ | ⟨hr, heq⟩ <;> rw [heq]
  · rw [dataCommand_of_fault (s := s.directTwin) hf, refuse, refuse]
    simp
  · rw [dataCommand_of_unbound (s := s.directTwin) hf hb]
    simp
  · obtain ⟨hword, havail⟩ := fetch8_directTwin h hr.bound
    rw [dataCommand_of_ready (s := s.directTwin) ⟨hr.bound, hr.noFault⟩, hk, hk, hword, havail]
    simp

/-! The host's actions. -/

/-- What the host sees of a command is what it sees of the command of the direct twin. -/
theorem exec_directTwin {i : Instr} {s : State} (hl : i.level = .command) (h : s.Legal) :
    directTwinOutcome (exec i s) = directTwinOutcome (exec i s.directTwin) := by
  cases i with
  | nop | bindD | bindB => exact congrArg Host.Outcome.next (by simp)
  | decode => exact congrArg Host.Outcome.next (dataCommand_directTwin h finishDecode_directTwin)
  | skip => exact congrArg Host.Outcome.next (dataCommand_directTwin h finishSkip_directTwin)
  | reserved100 | reserved101 | reserved110 =>
    exact congrArg Host.Outcome.next (by simp [reservedCode_directTwin])
  | fui1 | fui2 | fui3 | fui4 | fui5 | fui6 | malformed | sentinel => cases hl

/-- The host does not see the form of a BIND. -/
theorem exec_bind_directTwin (s : State) :
    directTwinOutcome (exec .bindB s) = directTwinOutcome (exec .bindD s) :=
  congrArg Host.Outcome.next (by simp)

theorem writeReg_directTwin (a : BitVec 3) (d : Nat) (s : State) :
    (writeReg a d s).directTwin = (writeReg a d s.directTwin).directTwin := by
  unfold writeReg
  split <;> simp [State.directTwin, Status.unbind]

theorem emit_readData_directTwin (s : State) (v : Nat) :
    (s.emit (.readData v)).directTwin = s.directTwin := by
  simp [State.directTwin, responses]

theorem hostFill_directTwin (o : Nat) (bs : List Byte) (s : State) :
    directTwinOutcome (hostFill o bs s) = directTwinOutcome (hostFill o bs s.directTwin) := by
  have hchange : changesSource s.directTwin o bs = changesSource s o bs := rfl
  have hcfg : s.directTwin.cfg = s.cfg := rfl
  have hbound : s.directTwin.status.bound = s.status.bound := rfl
  unfold hostFill
  rw [hchange, hcfg, hbound]
  split_ifs
  · rfl
  · rfl
  · simp [directTwinOutcome, State.directTwin]

/-- The host sees the same reset block, whatever traffic of an abandoned command is on the ports. -/
theorem hostReset_directTwin (s : State) {io io' : List PortEvent}
    (h : responses io = responses io') :
    directTwinOutcome (hostReset { s with io := io }) =
      directTwinOutcome (hostReset { s.directTwin with io := io' }) := by
  simp [directTwinOutcome, hostReset, State.directTwin, h]

/-- What the block does with the action it has accepted. -/
def perform (s : State) : HostAction → Outcome
  | .command c => exec (decodeCommand c) s
  | .writeReg a d => hostWrite a d s
  | .readReg a => hostRead a s
  | .fill o bs => hostFill o bs s
  | .rst => hostReset s
  | .rstDuring c seen => hostAbandon (exec (decodeCommand c) s) seen s

theorem step_of_pending {s : State} {a : HostAction} {rest : List HostAction}
    (h : s.pending = a :: rest) : step s = perform (s.accept rest) a := by
  unfold step
  rw [h]
  cases a <;> rfl

theorem step_of_idle {s : State} (h : s.pending = []) : step s = .next (s.accept []) := by
  rw [step, h]

/-- What the host sees of an action is what it sees of the direct twin's. -/
theorem perform_directTwin {s : State} (h : s.Legal) (a : HostAction) :
    directTwinOutcome (perform s a) = directTwinOutcome (perform s.directTwin a.asDirect) := by
  cases a with
  | command c =>
    by_cases hc : c = 7
    · subst hc
      exact (exec_bind_directTwin s).trans (exec_directTwin (i := .bindD) rfl h)
    · simp only [HostAction.asDirect, if_neg hc]
      exact exec_directTwin (decodeCommand_level c) h
  | writeReg a d => exact congrArg Host.Outcome.next (writeReg_directTwin a d s)
  | readReg a =>
    exact congrArg Host.Outcome.next
      (by simp only [emit_readData_directTwin, directTwin_directTwin])
  | fill o bs => exact hostFill_directTwin o bs s
  | rst => exact hostReset_directTwin s (io := s.io) (by simp)
  | rstDuring c seen =>
    exact hostReset_directTwin s (by simp only [responses_take_trafficOf])

/-- Twins accept actions that are the same but for the form of a BIND, and are twins when they
have. -/
theorem Twins.accept {s u : State} (h : Twins s u) :
    (s.pending = [] ∧ u.pending = [] ∧ (s.accept []).directTwin = (u.accept []).directTwin) ∨
    ∃ a b rest rest', s.pending = a :: rest ∧ u.pending = b :: rest' ∧ a.asDirect = b.asDirect ∧
      (s.accept rest).directTwin = (u.accept rest').directTwin := by
  have htwin {r r' : List HostAction}
      (hr : r.map HostAction.asDirect = r'.map HostAction.asDirect) :
      (s.accept r).directTwin = (u.accept r').directTwin :=
    (directTwin_eq_iff ..).2 ⟨⟨h.cfg, h.visible, h.src, h.mark, hr⟩, rfl⟩
  have hscript := h.script
  cases hs : s.pending with
  | nil =>
    rw [hs, List.map_nil, eq_comm, List.map_eq_nil_iff] at hscript
    exact .inl ⟨rfl, hscript, htwin rfl⟩
  | cons a rest =>
    rw [hs, List.map_cons, eq_comm, List.map_eq_cons_iff] at hscript
    obtain ⟨b, rest', hu, hab, hrest⟩ := hscript
    exact .inr ⟨a, b, rest, rest', rfl, hu, hab.symm, htwin hrest.symm⟩

/-- Settles O57: both steps look to the host as the step of their one direct twin
(`perform_directTwin`). -/
theorem readerFormIsInvisibleToEveryStep : Obligations.ReaderFormIsInvisibleToEveryStep := by
  intro s u hs hu h
  rw [twinOutcomes_iff]
  rcases h.accept with ⟨hps, hpu, htwin⟩ | ⟨a, b, rest, rest', hps, hpu, hab, htwin⟩
  · rw [step_of_idle hps, step_of_idle hpu]
    exact congrArg Host.Outcome.next htwin
  · rw [step_of_pending hps, step_of_pending hpu, perform_directTwin (hs.accept rest),
      perform_directTwin (hu.accept rest'), hab, htwin]

/-! Whole runs. -/

/-- Runs from legal twins with the same responses end in twin outcomes. -/
theorem run_twinOutcomes (n : Nat) {s u : State} (hs : s.Legal) (hu : u.Legal) (h : Twins s u)
    (hio : responses s.io = responses u.io) :
    TwinOutcomes (Sys2Proof.core.run n s) (Sys2Proof.core.run n u) := by
  induction n generalizing s u with
  | zero => exact ⟨h, hio⟩
  | succ n ih =>
    have hstep := readerFormIsInvisibleToEveryStep s u hs hu h
    cases hst : step s <;> cases hut : step u <;> rw [hst, hut] at hstep
    case next.next t v =>
      rw [run_next hst, run_next hut]
      exact ih (everyStepKeepsALegalState s t hs hst) (everyStepKeepsALegalState u v hu hut)
        hstep.1 hstep.2
    case fault.fault => rw [run_fault hst, run_fault hut]; exact hstep
    case refused.refused => rw [run_refused hst, run_refused hut]; exact hstep
    all_goals exact hstep.elim

/-- Settles O58, by induction on the number of actions from O57: the two scripts differ in the form
of each BIND alone. -/
theorem bufferedAndDirectRunsAreIndistinguishable :
    Obligations.BufferedAndDirectRunsAreIndistinguishable := by
  intro cfg image script n hwf hrange
  refine run_twinOutcomes n (resetWith_legal hwf hrange _ _) (resetWith_legal hwf hrange _ _)
    ⟨rfl, rfl, rfl, rfl, ?_⟩ rfl
  simp [State.script]

end Sys2Proof.Machine

/-! PROOF. Fetch and window (41_reader_ops.md R156 to R162): what a fetch returns and what a refill
loads. -/

namespace Sys2Proof.Machine

/-- Settles O35, over `needRefresh_iff`. -/
theorem refreshIsNeededOutsideTheWindow : Obligations.RefreshIsNeededOutsideTheWindow := by
  intro s
  have hiff := needRefresh_iff s
  refine ⟨by rw [hiff]; omega, fun hn => ?_⟩
  rw [hn] at hiff
  simp only [Bool.false_eq_true, false_iff] at hiff
  omega

/-- A buffered fetch sees the bytes ahead wherever the window invariant holds, whatever the rest
of the state is. -/
theorem fetch8Buffered_eq {s : State} (hwf : s.win.wf = true) (hwin : s.WindowOk) :
    (fetch8Buffered s).word = assemble8 s.bytesAhead ∧
      (fetch8Buffered s).avail = s.bytesAhead.length := by
  cases hn : needRefresh s with
  | true =>
    have hw := s.cfg.w_ge
    rw [← refill_bytesAhead]
    refine fetch8Buffered_eq_of_window (by rw [hn]; rfl) (refill_windowOk hwf) ?_ ?_ <;>
      simp only [refill_wbase, refill_wend, refill_cursor, refill_srcLen] <;> omega
  | false =>
    have hin := (refreshIsNeededOutsideTheWindow s).2 hn
    have hend := hwin.end_le_len
    exact fetch8Buffered_eq_of_window (by rw [hn]; rfl) hwin (by omega) (by omega)

/-- Settles O34: both fetches see the bytes ahead. -/
theorem bufferedFetchEqualsDirectFetch : Obligations.BufferedFetchEqualsDirectFetch := by
  intro s _ hwf hwin
  rw [fetch8Direct_eq]
  exact fetch8Buffered_eq hwf hwin

/-- A lane of an assembled word is its byte. -/
theorem extractLsb'_assemble8 (bs : List Byte) {i : Nat} (hi : i < 8) :
    (assemble8 bs).extractLsb' (8 * i) 8 = bs.getD i 0 := by
  refine BitVec.eq_of_getLsbD_eq fun j hj => ?_
  rw [BitVec.getLsbD_extractLsb', getLsbD_assemble8, show (8 * i + j) / 8 = i by omega,
    show (8 * i + j) % 8 = j by omega, decide_eq_true hj,
    decide_eq_true (show 8 * i + j < 64 by omega), Bool.true_and, Bool.true_and]

/-- Settles O33: the lanes of the fetched word are the bytes ahead. -/
theorem fetchReturnsTheBytesAtTheCursor : Obligations.FetchReturnsTheBytesAtTheCursor := by
  intro s h hb
  obtain ⟨hword, havail⟩ := h.fetch8_eq hb
  refine ⟨h.fetch8_avail hb, fun i hi => ?_⟩
  rw [hword, havail, extractLsb'_assemble8 _ hi]
  split
  · next hlen => exact bytesAhead_getD s hlen
  · next hlen => exact List.getD_eq_default _ _ (Nat.not_lt.1 hlen)

/-! What a data command leaves of the window and drives on the ports. -/

/-- What a data command can do, by the checks of `Execute`. -/
theorem exec_data_cases {i : Instr} {s t : State} (hi : IsData i) (h : exec i s = .next t) :
    (s.status.fault = true ∧ t = refuse s) ∨
    (s.status.fault = false ∧ s.status.bound = false ∧ t = raise .notBound s) ∨
    (s.Ready ∧ DataResult s i t) := by
  cases exec_cases h with
  | nop hn => subst hn; simp [IsData, Instr.level] at hi
  | bindD hn => subst hn; simp [IsData, Instr.level] at hi
  | bindB hn => exact absurd hn hi.ne_bindB
  | refused _ hf ht => exact .inl ⟨hf, ht⟩
  | illegal hn => rcases hn with rfl | rfl | rfl <;> simp [IsData, Instr.level] at hi
  | unbound _ hf hb ht => exact .inr (.inl ⟨hf, hb, ht⟩)
  | data _ hr hd => exact .inr (.inr ⟨hr, hd⟩)

theorem exec_data_of_ready {i : Instr} {s t : State} (hi : IsData i) (hr : s.Ready)
    (h : exec i s = .next t) : DataResult s i t := by
  rcases exec_data_cases hi h with ⟨hf, _⟩ | ⟨_, hb, _⟩ | ⟨_, hd⟩
  · exact absurd hr.noFault (by simp [hf])
  · exact absurd hr.bound (by simp [hb])
  · exact hd

/-- What a fetch changes: the window, the source requests and the prefetch pulses. -/
def fetchEffect (s : State) : Nat × Nat × Memory × List (Nat × Nat) × List Nat :=
  (s.wbase, s.wend, s.win, requests s.io, hints s.io)

theorem LeavesAsFetched.fetchEffect_eq {s t : State} (h : LeavesAsFetched s t) :
    fetchEffect t = fetchEffect (fetch8 s).after := by
  obtain ⟨hwindow, hhints, hrequests⟩ := h
  simp only [Prod.mk.injEq] at hwindow
  simp [fetchEffect, *]

/-- A data command has the effect of its fetch, and no fetch without a ready reader. -/
theorem exec_fetchEffect {i : Instr} {s t : State} (hi : IsData i) (h : exec i s = .next t) :
    fetchEffect t = if s.status.bound = true ∧ s.status.fault = false then
      fetchEffect (fetch8 s).after else fetchEffect s := by
  rcases exec_data_cases hi h with ⟨hf, rfl⟩ | ⟨_, hb, rfl⟩ | ⟨hr, hd⟩
  · simp [fetchEffect, hf]
  · simp [fetchEffect, hb]
  · rw [if_pos ⟨hr.bound, hr.noFault⟩, hd.leavesAsFetched.fetchEffect_eq]

/-- Settles O32: a run and a DECODE have the effect of the same fetch. -/
theorem everyRunFetchesAsDecodeDoes : Obligations.EveryRunFetchesAsDecodeDoes := by
  intro i s t u hl ht hu
  have heffect := (exec_fetchEffect (.inr (.inr hl)) ht).trans (exec_fetchEffect (.inl rfl) hu).symm
  simpa only [fetchEffect, Prod.mk.injEq] using heffect

/-! The refill (41_reader_ops.md R160). -/

/-- A refill of a reader under construction. -/
theorem refill_construct_fetchEffect (buffered : Bool) (s : State) :
    fetchEffect (refill (construct buffered s)) = fetchEffect (refill s) := by
  rcases Nat.lt_or_ge s.cursor s.srcLen with h | h
  · rw [refill_of_lt h, refill_of_lt (s := construct buffered s) h]
    simp [fetchEffect, srcRead]
  · rw [refill_of_le h, refill_of_le (s := construct buffered s) h]
    rfl

/-- BIND.B, and a DECODE or SKIP that refreshes the window, leave the window and the requests of the
refill. -/
theorem exec_refills {i : Instr} {s t : State}
    (hi : i = .bindB ∨
      ((i = .decode ∨ i = .skip) ∧ s.Ready ∧ s.status.mode = true ∧ needRefresh s = true))
    (h : exec i s = .next t) :
    t.wbase = (refill s).wbase ∧ t.wend = (refill s).wend ∧ t.win = (refill s).win ∧
      requests t.io = requests (refill s).io := by
  rcases hi with rfl | ⟨hi, hr, hrefresh⟩
  · obtain rfl : respond true (refill (construct true s)) = t := Host.Outcome.next.inj h
    have heffect := refill_construct_fetchEffect true s
    simp only [fetchEffect, Prod.mk.injEq] at heffect
    obtain ⟨hbase, hend, hwin, hrequests, _⟩ := heffect
    exact ⟨hbase, hend, hwin, by simpa using hrequests⟩
  · have hd := exec_data_of_ready (hi.imp_right .inl) hr h
    obtain ⟨hwindow, _, hrequests⟩ := hd.leavesAsFetched
    rw [fetch8_after_window, if_pos hrefresh, Prod.mk.injEq, Prod.mk.injEq] at hwindow
    obtain ⟨hbase, hend, hwin⟩ := hwindow
    refine ⟨hbase, hend, hwin, ?_⟩
    rw [hrequests, fetch8_requests, refill_requests, hrefresh.1, hrefresh.2]
    rfl

/-- Settles O36: `exec_refills`. -/
theorem refillCopiesTheChunkAtTheCursor : Obligations.RefillCopiesTheChunkAtTheCursor := by
  rintro s t i hwf hi h n rfl
  obtain ⟨hbase, hend, hwin, hrequests⟩ := exec_refills hi h
  have hw := s.cfg.w_ge
  rw [hbase, hend, hwin, hrequests, refill_requests]
  constructor
  · intro hlt
    rw [refill_wbase, refill_wend, if_pos hlt]
    exact ⟨by omega, by omega, by omega, by omega, by omega, fun k => refill_win_copied hwf hlt,
      fun k => refill_win_kept, rfl⟩
  · intro hle
    rw [refill_of_le hle, if_neg (Nat.not_lt.2 hle), List.append_nil]
    exact ⟨rfl, rfl, rfl, rfl⟩

end Sys2Proof.Machine

/-! PROOF. The commands (41_reader_ops.md R150 to R155, R164, R165) and the run a DECODE consumes
(30_encoding.md R90, R93). -/

namespace Sys2Proof.Machine

/-- Settles O3: `step_of_pending`, and the byte that holds the code is read back. -/
theorem stepRunsTheCommandOnThePort : Obligations.StepRunsTheCommandOnThePort := by
  refine ⟨fun s code rest hp => ⟨step_of_pending hp, decode_command code []⟩, fun s hp => ?_⟩
  rw [step_of_idle hp, State.accept, ← hp]

/-- Settles O21: NOP is its response. -/
theorem nopChangesNothing : Obligations.NopChangesNothing := fun _ => rfl

/-- Settles O27: no latched fault refuses the code, so it raises its cause. -/
theorem reservedCodesRaiseIllegalCommand : Obligations.ReservedCodesRaiseIllegalCommand := by
  intro i s hi hf
  have hexec : exec i s = .next (reservedCode s) := by rcases hi with rfl | rfl | rfl <;> rfl
  rcases reservedCode_cases s with ⟨hf', _⟩ | ⟨_, heq⟩
  · rw [hf] at hf'
    cases hf'
  · rw [hexec, heq]
    rfl

/-! What a DECODE does with assembled bytes. -/

/-- A fetched pair of assembled bytes without a run is met as the malformed row. -/
theorem finishDecode_of_formLen_eq_zero {bs : List Byte} (h : formLen (assemble8 bs) = 0)
    (s : State) :
    finishDecode (assemble8 bs) bs.length s =
      raise (if MAX_LEN ≤ bs.length then .overlong else .truncated) s := by
  rw [formLen_eq _ bs.length, findTerm_len_eq_zero_iff_malformed] at h
  obtain ⟨sub, hsub⟩ := h
  rw [finishDecode, (decodeWord_eq_malformed_iff ..).2 hsub, findTerm_assemble8_sub hsub]
  simp only [apply_ite Malformed.cause, MAX_LEN_eq]
  rfl

/-- A fetched pair of assembled bytes with a run completes with the value of its groups, and the run
is among the bytes. -/
theorem finishDecode_of_formLen_eq_succ {bs : List Byte} {n : Nat}
    (h : formLen (assemble8 bs) = n + 1) (s : State) :
    n + 1 ≤ bs.length ∧ finishDecode (assemble8 bs) bs.length s =
      completeDecode (runValue ((List.range (n + 1)).map (group (assemble8 bs)))) (n + 1) s := by
  rw [formLen_eq _ bs.length] at h
  have hfound := (findTerm_eq_ok_iff_len ..).2 ⟨h, Nat.succ_ne_zero n⟩
  refine ⟨findTerm_assemble8_le_length hfound, ?_⟩
  rw [finishDecode, (decodeWord_eq_ok_iff ..).2 ⟨hfound, rfl⟩,
    extract_eq_runValue _ (findTerm_ok_range hfound).2]

/-! The constructions. -/

/-- Settles O22: at or past the true end the DECODE fetches no byte, so it finds no terminator. -/
theorem bindDirectConstructsTheReader : Obligations.BindDirectConstructsTheReader := by
  refine ⟨fun _ => rfl, fun s t hend ht => ?_⟩
  obtain rfl : respond true (construct false s) = t := Host.Outcome.next.inj ht
  set t := respond true (construct false s)
  have hahead : t.bytesAhead = [] := by
    rw [← List.length_eq_zero_iff, bytesAhead_length]
    simp [t, hend]
  have hfetch : fetch8 t = fetch8Direct t := rfl
  refine ⟨_, rfl, ?_⟩
  rw [dataCommand_of_ready ⟨rfl, rfl⟩, hfetch, fetch8Direct_eq, hahead,
    finishDecode_of_formLen_eq_zero (by decide)]
  exact ⟨rfl, rfl⟩

theorem refill_io (s : State) : (refill s).io = s.io ++
    if s.cursor < s.srcLen then [.srcRequest s.cursor (min s.cfg.w (s.srcLen - s.cursor))]
    else [] := by
  have hw := s.cfg.w_ge
  rcases Nat.lt_or_ge s.cursor s.srcLen with h | h
  · rw [refill_of_lt h, if_pos h]
    simp only [requestSource_io]
    rw [if_neg (by omega)]
  · rw [refill_of_le h, if_neg (Nat.not_lt.2 h), List.append_nil]

/-- Settles O23, by the fields of the refill. -/
theorem bindBufferedConstructsTheReaderAndLoadsTheWindow :
    Obligations.BindBufferedConstructsTheReaderAndLoadsTheWindow := by
  rintro s hwf n rfl
  refine ⟨_, rfl, ?_, refill_wbase _, ?_, fun k hk => ?_, fun k hk => ?_, ?_, ?_, ?_, ?_, ?_⟩
  · simp [State.visible]
  · rw [respond_wend, refill_wend, construct_cursor, construct_cfg, construct_srcLen]
    omega
  · exact refill_win_copied (s := construct true s) hwf (by show s.cursor < s.srcLen; omega) hk
  · exact refill_win_kept (s := construct true s) hk
  · rw [respond_io, refill_io, responseWith_visible, refill_cause, refill_value, refill_len,
      refill_status]
    rfl
  all_goals simp

/-! DECODE and SKIP of a ready reader. -/

/-- The window a data command of a ready reader leaves. -/
theorem windowAfterFetch_of_ready {i : Instr} {s : State} (hi : IsData i) (hr : s.Ready) :
    WindowAfterFetch s (exec i s) := fun _ ht =>
  (exec_data_of_ready hi hr ht).leavesAsFetched.window.trans (fetch8_after_window s)

/-- A completed SKIP after a fetch, as the host sees it. -/
theorem nextWith_completeSkip (s : State) (len : Nat) :
    NextWith s (.next (completeSkip len (fetch8 s).after)) (s.visible.skipped len) true :=
  ⟨_, rfl, by simp [State.visible, Visible.skipped, Status.afterSkip], by simp,
    by simp [State.visible, Visible.skipped]⟩

/-- A DECODE of a legal, ready reader finishes on the bytes ahead. -/
theorem State.Legal.exec_decode_eq {s : State} (h : s.Legal) (hr : s.Ready) :
    Machine.exec .decode s = .next (finishDecode (assemble8 s.bytesAhead) s.bytesAhead.length
      (fetch8 s).after) := by
  obtain ⟨hword, havail⟩ := h.fetch8_eq hr.bound
  rw [← hword, ← havail, ← dataCommand_of_ready hr finishDecode]
  rfl

/-- A SKIP of a legal, ready reader finishes on the bytes ahead. -/
theorem State.Legal.exec_skip_eq {s : State} (h : s.Legal) (hr : s.Ready) :
    Machine.exec .skip s = .next (finishSkip (assemble8 s.bytesAhead) s.bytesAhead.length
      (fetch8 s).after) := by
  obtain ⟨hword, havail⟩ := h.fetch8_eq hr.bound
  rw [← hword, ← havail, ← dataCommand_of_ready hr finishSkip]
  rfl

/-- Settles O24, by what the DECODE finds in the bytes ahead. -/
theorem decodeDeliversTheRunAtTheCursor : Obligations.DecodeDeliversTheRunAtTheCursor := by
  rintro s h hr d rfl
  refine ⟨?_, windowAfterFetch_of_ready (.inl rfl) hr⟩
  rw [h.exec_decode_eq hr, finishDecode]
  cases decodeWord (assemble8 s.bytesAhead) s.bytesAhead.length with
  | ok value len => exact nextWith_completeDecode s value len
  | malformed sub => exact nextWith_raise s sub.cause

/-- Settles O25, by what the SKIP finds in the bytes ahead. -/
theorem skipAdvancesPastTheRunAtTheCursor : Obligations.SkipAdvancesPastTheRunAtTheCursor := by
  rintro s h hr d rfl
  refine ⟨?_, windowAfterFetch_of_ready (.inr (.inl rfl)) hr⟩
  rw [h.exec_skip_eq hr, finishSkip]
  cases skipWord (assemble8 s.bytesAhead) s.bytesAhead.length with
  | ok len => exact nextWith_completeSkip s len
  | malformed sub => exact nextWith_raise s sub.cause

/-! The run at the cursor as an instruction (log 6). -/

/-- A run as an instruction consumes its groups. -/
theorem exec_of_isRun {i : Instr} {ps : List Payload} {p : Payload} (h : IsRun i ps p) (s : State) :
    exec i s = .next (consumeRun (ps ++ [p]) s) := by
  cases h <;> rfl

/-- A DECODE of a legal, ready reader is the run that the decoder reads from the bytes ahead. -/
theorem State.Legal.exec_decode_eq_exec_run {s : State} (h : s.Legal) (hr : s.Ready) :
    Machine.exec .decode s = Machine.exec (decodeRun (assemble8 s.bytesAhead)) s := by
  obtain ⟨_, havail⟩ := h.fetch8_eq hr.bound
  rw [h.exec_decode_eq hr]
  cases hn : formLen (assemble8 s.bytesAhead) with
  | zero =>
    rw [finishDecode_of_formLen_eq_zero hn, decodeRun_malformed hn, ← havail]
    show _ = Host.Outcome.next (Machine.meetMalformed s)
    rw [Machine.meetMalformed, dataCommand_of_ready hr]
  | succ n =>
    obtain ⟨hlen, hfinish⟩ := finishDecode_of_formLen_eq_succ hn (fetch8 s).after
    rw [hfinish, exec_of_isRun (decodeRun_isRun hn), ← List.map_singleton, ← List.map_append,
      ← List.range_succ, Machine.consumeRun, dataCommand_of_ready hr, List.length_map,
      List.length_range, if_pos (havail ▸ hlen)]

/-- Settles O4: the step runs the DECODE, and that is the run at the cursor. -/
theorem decodeStepRunsTheRunAtTheCursor : Obligations.DecodeStepRunsTheRunAtTheCursor := by
  intro s rest i bs h hr hp hdec
  rw [decode_stream] at hdec
  cases hdec
  rw [step_of_pending hp]
  exact (h.accept rest).exec_decode_eq_exec_run ⟨hr.bound, hr.noFault⟩

/-! The response (41_reader_ops.md R165). -/

/-- A reserved code and a data command are neither NOP nor a BIND. -/
theorem ne_nop_bind {i : Instr} (h : IsReserved i ∨ IsData i) :
    i ≠ .nop ∧ i ≠ .bindD ∧ i ≠ .bindB := by
  rcases h with (rfl | rfl | rfl) | rfl | rfl | h
  case inr.inr.inr => refine ⟨?_, ?_, ?_⟩ <;> rintro rfl <;> cases h
  all_goals decide

/-- Settles O47, by what the instruction can do: `ok` is 0 exactly where a fault is latched after
it. -/
theorem everyCommandPostsOneResponse : Obligations.EveryCommandPostsOneResponse := by
  intro i s t h
  cases exec_cases h with
  | nop hi ht => subst hi ht; exact ⟨true, by simp⟩
  | bindD hi ht => subst hi ht; exact ⟨true, by simp⟩
  | bindB hi ht => subst hi ht; exact ⟨true, by simp⟩
  | refused hi hf ht => subst ht; exact ⟨false, by simp, by simp [ne_nop_bind hi, hf]⟩
  | illegal hi _ ht => subst ht; exact ⟨false, by simp, by simp [ne_nop_bind (.inl hi)]⟩
  | unbound hi _ _ ht => subst ht; exact ⟨false, by simp, by simp [ne_nop_bind (.inr hi)]⟩
  | data hi hr hd =>
    cases hd with
    | delivered v n _ _ _ ht => subst ht; exact ⟨true, by simp [hr.noFault]⟩
    | skipped n _ _ _ ht => subst ht; exact ⟨true, by simp [hr.noFault]⟩
    | malformed sub ht => subst ht; exact ⟨false, by simp, by simp [ne_nop_bind (.inr hi)]⟩

end Sys2Proof.Machine

/-! PROOF. READ_SEQ over a reference encoding (41_reader_ops.md R166, 30_encoding.md R109, R111). -/

namespace Sys2Proof.Machine

/-! The reference encoding of a list. -/

/-- The sentinel is the reference encoding of 0. -/
theorem encSeq_nil : encSeq [] = some (encBytes 0 1) := rfl

theorem encSeq_cons_of_encLen {v k : Nat} (hk : encLen v = some k) (vs : List Nat) :
    encSeq (v :: vs) = (encSeq vs).map (encBytes v k ++ ·) := by
  rw [encSeq, enc, hk]
  rfl

/-- The reference lengths of a longer list. -/
theorem map_encLen_cons {v : Nat} {vs lens : List Nat} (h : (v :: vs).map encLen = lens.map some) :
    ∃ k lens', encLen v = some k ∧ vs.map encLen = lens'.map some ∧ lens = k :: lens' := by
  rw [List.map_cons, eq_comm, List.map_eq_cons_iff] at h
  obtain ⟨k, lens', rfl, hk, hlens⟩ := h
  exact ⟨k, lens', hk.symm, hlens.symm, rfl⟩

/-- A list of values below `2^42` has a reference encoding, and each of them a length in it. -/
theorem exists_encSeq {vs : List Nat} (h : ∀ v, v ∈ vs → v < 2 ^ 42) :
    ∃ (e : List Byte) (lens : List Nat), encSeq vs = some e ∧ vs.map encLen = lens.map some := by
  induction vs with
  | nil => exact ⟨_, [], encSeq_nil, rfl⟩
  | cons v vs ih =>
    rw [List.forall_mem_cons] at h
    obtain ⟨k, hk⟩ := (lt_two_pow_42_iff_exists_encLen v).1 h.1
    obtain ⟨e, lens, he, hlens⟩ := ih h.2
    refine ⟨encBytes v k ++ e, k :: lens, ?_, ?_⟩
    · rw [encSeq_cons_of_encLen hk, he, Option.map_some]
    · rw [List.map_cons, List.map_cons, hk, hlens]

/-! One DECODE of READ_SEQ. -/

/-- READ_SEQ is over when a DECODE has met the end of the sequence. -/
theorem readSeq_succ_of_eos {s t : State} (h : step (s.present (.command decodeCode)) = .next t)
    (heos : t.status.eos = true) (fuel : Nat) :
    readSeq (fuel + 1) s = some { values := [], decodes := 1, last := t } := by
  simp [readSeq, h, heos]

/-- READ_SEQ goes on after a DECODE that delivered a value other than 0. -/
theorem readSeq_succ_of_value {s t : State} (h : step (s.present (.command decodeCode)) = .next t)
    (heos : t.status.eos = false) (hfault : t.status.fault = false) (fuel : Nat) :
    readSeq (fuel + 1) s = (readSeq fuel t).map fun r =>
      { values := t.value.toNat :: r.values, decodes := r.decodes + 1, last := r.last } := by
  simp [readSeq, h, heos, hfault]

theorem Memory.readList_add (m : Memory) (a n k : Nat) :
    m.readList a (n + k) = m.readList a n ++ m.readList (a + n) k := by
  simp [readList, List.range_add, Nat.add_assoc]

/-- The source holds these bytes at the cursor, below the true end. -/
structure State.HoldsAhead (s : State) (bs : List Byte) : Prop where
  fits : s.cursor + bs.length ≤ s.srcLen
  bytes : s.src.readList s.cursor bs.length = bs

/-- Of the bytes the source holds at the cursor the first ones are there, and the others follow. -/
theorem State.HoldsAhead.append {s : State} {bs bs' : List Byte} (h : s.HoldsAhead (bs ++ bs')) :
    s.HoldsAhead bs ∧ s.src.readList (s.cursor + bs.length) bs'.length = bs' := by
  obtain ⟨hfits, hbytes⟩ := h
  rw [List.length_append] at hfits hbytes
  rw [Memory.readList_add] at hbytes
  obtain ⟨hfst, hsnd⟩ := List.append_inj hbytes (Memory.length_readList ..)
  exact ⟨⟨by omega, hfst⟩, hsnd⟩

/-- A reference encoding at the cursor decodes to its value. -/
theorem State.HoldsAhead.decodeWord_eq {s : State} {v k : Nat} (hk : encLen v = some k)
    (h : s.HoldsAhead (encBytes v k)) :
    decodeWord (assemble8 s.bytesAhead) s.bytesAhead.length = .ok v k := by
  have h6 := (encLen_range hk).2.1
  obtain ⟨hfits, hbytes⟩ := h
  rw [encBytes_length] at hfits hbytes
  have hprefix : encBytes v k <+: s.bytesAhead := by
    refine ⟨s.src.readList (s.cursor + k) (min 8 (s.srcLen - s.cursor) - k), ?_⟩
    have hsplit : min 8 (s.srcLen - s.cursor) = k + (min 8 (s.srcLen - s.cursor) - k) := by omega
    rw [State.bytesAhead, srcRead, WORD_BYTES_eq]
    conv_rhs => rw [hsplit, Memory.readList_add, hbytes]
  have henc : enc v = some (encBytes v k) := (enc_eq_some_iff ..).2 (by simp [hk])
  have h8 : s.bytesAhead.length ≤ 8 := by rw [bytesAhead_length]; omega
  obtain ⟨_, hdecodes, _⟩ := decodeOfReferenceEncodingIsTheValue
  simpa using (hdecodes v _ _ henc h8 hprefix).2

/-- What a DECODE leaves that delivers the value `v` from `k` bytes (41_reader_ops.md R154). -/
structure Delivers (s t : State) (v k : Nat) : Prop where
  legal : t.Legal
  cursor : t.cursor = s.cursor + k
  srcLen : t.srcLen = s.srcLen
  value : t.value = BitVec.ofNat 64 v
  status : t.status = s.status.afterDecode v
  src : t.src = s.src

/-- A DECODE over a reference encoding delivers its value, past its bytes. -/
theorem State.Legal.step_delivers {s : State} (h : s.Legal) (hr : s.Ready) {v k : Nat}
    (hk : encLen v = some k) (hahead : s.HoldsAhead (encBytes v k)) :
    ∃ t, step (s.present (.command decodeCode)) = .next t ∧ Delivers s t v k := by
  have hstep : step (s.present (.command decodeCode)) =
    Machine.exec .decode (s.accept s.pending) := rfl
  have hdecode : decodeWord (assemble8 (s.accept s.pending).bytesAhead)
    (s.accept s.pending).bytesAhead.length = .ok v k :=
    State.HoldsAhead.decodeWord_eq hk ⟨hahead.fits, hahead.bytes⟩
  obtain ⟨⟨t, ht, hvisible, hsrc, _⟩, _⟩ := decodeDeliversTheRunAtTheCursor (s.accept s.pending)
    (h.accept _) ⟨hr.bound, hr.noFault⟩ _ rfl
  rw [hdecode] at hvisible
  exact ⟨t, hstep.trans ht,
    { legal := (h.accept _).exec ht
      cursor := congrArg Visible.cursor hvisible
      srcLen := congrArg Visible.srcLen hvisible
      value := congrArg Visible.value hvisible
      status := congrArg Visible.status hvisible
      src := hsrc }⟩

section Delivers

variable {s t : State} {v k : Nat} (h : Delivers s t v k)

include h

theorem Delivers.noFault (hr : s.Ready) : t.status.fault = false := by
  rw [h.status]
  exact hr.noFault

theorem Delivers.ready (hr : s.Ready) : t.Ready :=
  ⟨by rw [h.status]; exact hr.bound, h.noFault hr⟩

theorem Delivers.eos : t.status.eos = (v == 0) := by rw [h.status, afterDecode_eos]

theorem Delivers.value_toNat (hv : v < 2 ^ 42) : t.value.toNat = v := by
  rw [h.value, BitVec.toNat_ofNat, Nat.mod_eq_of_lt (by omega)]

/-- The bytes after those of the delivered value stand at the new cursor. -/
theorem Delivers.holdsAhead {bs : List Byte} (hahead : s.HoldsAhead (encBytes v k ++ bs)) :
    t.HoldsAhead bs := by
  have hfits := hahead.fits
  have hrest := hahead.append.2
  rw [List.length_append, encBytes_length] at hfits
  rw [encBytes_length, ← h.cursor, ← h.src] at hrest
  exact ⟨by rw [h.cursor, h.srcLen]; omega, hrest⟩

end Delivers

/-! The whole sequence. -/

/-- READ_SEQ over the reference encoding of a list, by induction on the list: each value takes one
DECODE, and the sentinel the last one. -/
theorem readSeq_encSeq {s : State} {vs lens : List Nat} {e : List Byte} (h : s.Legal) (hr : s.Ready)
    (hvs : ∀ v, v ∈ vs → 1 ≤ v) (hlens : vs.map encLen = lens.map some) (he : encSeq vs = some e)
    (hahead : s.HoldsAhead e) :
    readSeq vs.length s = none ∧
      ∃ t, readSeq (vs.length + 1) s =
          some { values := vs, decodes := vs.length + 1, last := t } ∧
        t.status.eos = true ∧ t.status.fault = false ∧ t.cursor = s.cursor + lens.sum + 1 := by
  induction vs generalizing s lens e with
  | nil =>
    obtain rfl : encBytes 0 1 = e := Option.some.inj he
    obtain rfl : lens = [] := by simpa using hlens
    obtain ⟨t, ht, hd⟩ := h.step_delivers hr (by decide) hahead
    exact ⟨rfl, t, readSeq_succ_of_eos ht hd.eos 0, hd.eos, hd.noFault hr, hd.cursor⟩
  | cons v vs ih =>
    obtain ⟨k, lens, hk, htail, rfl⟩ := map_encLen_cons hlens
    rw [encSeq_cons_of_encLen hk, Option.map_eq_some_iff] at he
    obtain ⟨es, hes, rfl⟩ := he
    rw [List.forall_mem_cons] at hvs
    obtain ⟨t, ht, hd⟩ := h.step_delivers hr hk hahead.append.1
    have heos : t.status.eos = false := by
      rw [hd.eos, beq_eq_false_iff_ne]
      omega
    obtain ⟨hnone, u, hu, hueos, hufault, hucursor⟩ :=
      ih hd.legal (hd.ready hr) hvs.2 htail hes (hd.holdsAhead hahead)
    have hgoes := readSeq_succ_of_value ht heos (hd.noFault hr)
    refine ⟨?_, u, ?_, hueos, hufault, ?_⟩
    · rw [List.length_cons, hgoes, hnone, Option.map_none]
    · rw [List.length_cons, hgoes, hu,
        hd.value_toNat ((lt_two_pow_42_iff_exists_encLen v).2 ⟨k, hk⟩), Option.map_some]
    · rw [hucursor, hd.cursor, List.sum_cons]
      omega

/-- Settles O59: `readSeq_encSeq` over the encoding that the bounds of the values give. -/
theorem readSeqYieldsTheEncodedSequence : Obligations.ReadSeqYieldsTheEncodedSequence := by
  intro s vs h hr hvs
  obtain ⟨e, lens, he, hlens⟩ := exists_encSeq fun v hv => (hvs v hv).2
  refine ⟨e, lens, he, hlens, fun hfits hbytes => ?_⟩
  obtain ⟨hnone, t, ht, heos, hfault, hcursor⟩ :=
    readSeq_encSeq h hr (fun v hv => (hvs v hv).1) hlens he ⟨hfits, hbytes⟩
  exact ⟨hnone, _, ht, rfl, rfl, heos, hfault, hcursor⟩

end Sys2Proof.Machine

/-! PROOF. The faults (60_exceptions.md R190 to R206): what raises one, what it changes, what clears it. -/

namespace Sys2Proof.Machine

/-! A run past the true end (60_exceptions.md R192; log 15). -/

/-- A run longer than what is left before the true end is longer than what its fetch finds. -/
theorem State.Legal.consumeRun_truncated {s : State} (h : s.Legal) (hr : s.Ready) {ps : List Payload}
    (hn : s.srcLen - s.cursor < ps.length) :
    NextWith s (.next (Machine.consumeRun ps s)) (s.visible.faulted .truncated) false := by
  have havail : ¬ ps.length ≤ (fetch8 s).avail := by
    rw [h.fetch8_avail hr.bound]
    omega
  rw [Machine.consumeRun, dataCommand_of_ready hr, if_neg havail]
  exact nextWith_raise s _

/-- Settles O31: each of the rows consumes as many groups as it has bytes. -/
theorem runPastTheTrueEndIsTruncated : Obligations.RunPastTheTrueEndIsTruncated := by
  intro s p0 p1 p2 p3 p4 p5 i h hr hi hn
  obtain ⟨ps, hexec, hsize⟩ :
      ∃ ps, exec i s = .next (consumeRun ps s) ∧ i.size = ps.length := by
    rcases hi with rfl | rfl | rfl | rfl | rfl | rfl | rfl <;> exact ⟨_, rfl, rfl⟩
  rw [hexec]
  exact h.consumeRun_truncated hr (hsize ▸ hn)

/-! Taking a fault (60_exceptions.md R193, R198, R199). -/

/-- A data command of an unbound reader raises its fault before it fetches. -/
theorem exec_data_of_unbound {i : Instr} {s : State} (hi : IsData i)
    (hb : s.status.bound = false) (hf : s.status.fault = false) :
    exec i s = .next (raise .notBound s) := by
  obtain ⟨t, ht⟩ := exec_next i s
  rcases exec_data_cases hi ht with ⟨hf', _⟩ | ⟨_, _, rfl⟩ | ⟨hr, _⟩
  · rw [hf] at hf'
    cases hf'
  · exact ht
  · rw [hr.bound] at hb
    cases hb

/-- Settles O42: `exec_data_of_unbound`, with the fields of the raised fault written out. -/
theorem unboundReaderRaisesNotBound : Obligations.UnboundReaderRaisesNotBound :=
  fun _ _ hi hb hf => exec_data_of_unbound hi hb hf

theorem IsReserved.not_isData {i : Instr} (h : IsReserved i) : ¬ IsData i := by
  rcases h with rfl | rfl | rfl <;> simp [IsData, Instr.level]

/-- Where a newly latched fault is raised: in the checks of `Execute`, before any fetch, or on the pair
that the fetch of a ready data command gave. -/
theorem exec_newFault {i : Instr} {s t : State} (h : exec i s = .next t)
    (hs : s.status.fault = false) (ht : t.status.fault = true) :
    (∃ c, c ≠ .none ∧ ¬ (IsData i ∧ s.status.bound = true) ∧ t = raise c s) ∨
    (IsData i ∧ s.status.bound = true ∧ ∃ sub : Malformed, t = raise sub.cause (fetch8 s).after) := by
  cases exec_cases h with
  | nop _ heq => subst heq; simp [hs] at ht
  | bindD _ heq => subst heq; simp at ht
  | bindB _ heq => subst heq; simp at ht
  | refused _ hf => rw [hs] at hf; cases hf
  | illegal hi _ heq => exact .inl ⟨_, by decide, fun hd => hi.not_isData hd.1, heq⟩
  | unbound _ _ hb heq => exact .inl ⟨_, by decide, by simp [hb], heq⟩
  | data hi hr hd =>
    cases hd with
    | delivered _ _ _ _ _ heq => subst heq; simp [hs] at ht
    | skipped _ _ _ _ heq => subst heq; simp [hs] at ht
    | malformed sub heq => exact .inr ⟨hi, hr.bound, sub, heq⟩

/-- Settles O43: a fault raised by the checks changes no hidden state, one raised on a fetched pair
leaves the window of the fetch. -/
theorem faultsArePrecise : Obligations.FaultsArePrecise := by
  intro i s t h hs ht
  rcases exec_newFault h hs ht with ⟨c, hc, hfetch, rfl⟩ | ⟨hi, hb, sub, rfl⟩
  · refine ⟨rfl, hc, by simp, (if_neg ?_).symm⟩
    exact fun hcond => hfetch ⟨hcond.1, hcond.2.1⟩
  · obtain ⟨_, heq, hvisible, _, hresponses⟩ := nextWith_raise s sub.cause
    cases heq
    refine ⟨hvisible, cause_ne_none sub, hresponses, (fetch8_after_window s).trans ?_⟩
    have hdata : i = .decode ∨ i = .skip ∨ i.level = .stream := hi
    simp only [hdata, hb, true_and]

/-! A latched fault (60_exceptions.md R200, R201). -/

/-- A latched fault refuses every instruction but NOP and the BINDs. -/
theorem exec_of_fault {i : Instr} {s : State} (hf : s.status.fault = true) (hnop : i ≠ .nop)
    (hbindD : i ≠ .bindD) (hbindB : i ≠ .bindB) : exec i s = .next (refuse s) := by
  obtain ⟨t, ht⟩ := exec_next i s
  rw [ht]
  cases exec_cases ht with
  | nop hi => exact absurd hi hnop
  | bindD hi => exact absurd hi hbindD
  | bindB hi => exact absurd hi hbindB
  | refused _ _ heq => rw [heq]
  | illegal _ hs => rw [hf] at hs; cases hs
  | unbound _ hs => rw [hf] at hs; cases hs
  | data _ hr => rw [hr.noFault] at hf; cases hf

@[simp] theorem writeReg_fault (a : BitVec 3) (d : Nat) (s : State) :
    (writeReg a d s).status.fault = s.status.fault := by
  rcases writeReg_cases a d s with ⟨_, heq⟩ | ⟨_, heq⟩ | ⟨_, _, heq⟩ <;> rw [heq]

/-- Settles O41: `exec_of_fault`, and the register port writes neither FAULT nor CAUSE. -/
theorem latchedFaultRefusesCommands : Obligations.LatchedFaultRefusesCommands := by
  refine fun s hf => ⟨fun i => exec_of_fault hf, fun a d t ht => ?_⟩
  rcases ht with ht | ht <;> cases ht
  · exact ⟨(writeReg_fault a d s).trans hf, writeReg_cause a d s⟩
  · exact ⟨hf, rfl⟩

/-- A BIND clears the fault and its cause and leaves CURSOR where it was. -/
theorem exec_bind_clears {i : Instr} {s t : State} (hi : i = .bindD ∨ i = .bindB)
    (h : exec i s = .next t) :
    t.status.fault = false ∧ t.cause = .none ∧ t.cursor = s.cursor := by
  rcases hi with rfl | rfl <;> cases h
  · exact ⟨rfl, rfl, rfl⟩
  · simp

/-- Every instruction but the BINDs keeps a latched fault and its cause. -/
theorem exec_keeps_fault {i : Instr} {s t : State} (hi : ¬ (i = .bindD ∨ i = .bindB))
    (hf : s.status.fault = true) (h : exec i s = .next t) :
    t.status.fault = true ∧ t.cause = s.cause := by
  obtain ⟨hbindD, hbindB⟩ := not_or.1 hi
  by_cases hnop : i = .nop
  · subst hnop
    cases h
    exact ⟨hf, rfl⟩
  · rw [exec_of_fault hf hnop hbindD hbindB] at h
    cases h
    exact ⟨hf, rfl⟩

/-- A command that is none of NOP, the BINDs, DECODE and SKIP is a reserved code. -/
theorem isReserved_of_command {i : Instr} (hl : i.level = .command) (hnop : i ≠ .nop)
    (hbind : ¬ (i = .bindD ∨ i = .bindB)) (hdata : ¬ (i = .decode ∨ i = .skip)) :
    IsReserved i := by
  cases i <;> simp_all [IsReserved, Instr.level]

/-- Settles O44, in the order of the checks. -/
theorem causesFollowTheCheckOrder : Obligations.CausesFollowTheCheckOrder := by
  intro i s t hl h
  refine ⟨?_, fun hi => ?_, fun hnop hbindD hbindB => ⟨fun hf => ?_, fun hf hdecode hskip => ?_,
    fun hf hi hb => ?_, fun hf hi hb => ?_⟩⟩
  · rintro rfl
    cases h
    exact ⟨rfl, rfl⟩
  · obtain ⟨hfault, hcause, _⟩ := exec_bind_clears hi h
    exact ⟨hcause, hfault⟩
  · exact (exec_keeps_fault (not_or.2 ⟨hbindD, hbindB⟩) hf h).2
  · have hi := isReserved_of_command hl hnop (not_or.2 ⟨hbindD, hbindB⟩) (not_or.2 ⟨hdecode, hskip⟩)
    rw [reservedCodesRaiseIllegalCommand i s hi hf] at h
    cases h
    rfl
  · rw [exec_data_of_unbound ((isData_command_iff hl).2 hi) hb hf] at h
    cases h
    rfl
  · rcases exec_search_result ⟨hb, hf⟩ hi h with ⟨_, _, hcause, hfault⟩ | ⟨sub, _, hcause, _⟩
    · exact .inl ⟨hfault, hcause⟩
    · cases sub with
      | overlong => exact .inr (.inl hcause)
      | truncated => exact .inr (.inr hcause)

theorem accepts_iff {s : State} {a : HostAction} {rest : List HostAction}
    (h : s.pending = a :: rest) (p : HostAction → Prop) : s.Accepts p ↔ p a := by
  simp [State.Accepts, h]

theorem not_accepts_of_idle {s : State} (h : s.pending = []) (p : HostAction → Prop) :
    ¬ s.Accepts p := by
  simp [State.Accepts, h]

/-- Settles O46, by the action the step accepts; a command's effect on the fault is that of
`exec_bind_clears` or `exec_keeps_fault`. -/
theorem onlyBindAndResetClearAFault : Obligations.OnlyBindAndResetClearAFault := by
  intro s t hf h
  rcases step_cases h with ⟨hp, rfl⟩ | ⟨c, rest, hp, hx⟩ | ⟨a, d, rest, hp, rfl⟩ | ⟨a, rest, hp, rfl⟩ |
    ⟨o, bs, rest, hp, hfill⟩ | ⟨a, rest, io, hp, ha, _, rfl⟩
  · exact .inl ⟨hf, rfl, not_accepts_of_idle hp _, not_accepts_of_idle hp _⟩
  · have hiff : s.Accepts (HostAction.IsCommand [.bindD, .bindB]) ↔
        decodeCommand c = .bindD ∨ decodeCommand c = .bindB := by
      simp [accepts_iff hp, HostAction.IsCommand]
    by_cases hbind : decodeCommand c = .bindD ∨ decodeCommand c = .bindB
    · obtain ⟨hfault, hcause, hcursor⟩ := exec_bind_clears hbind hx
      exact .inr (.inl ⟨hfault, hcause, hcursor, hiff.2 hbind⟩)
    · obtain ⟨hfault, hcause⟩ := exec_keeps_fault (s := s.accept rest) hbind hf hx
      exact .inl ⟨hfault, hcause, (accepts_iff hp _).not.2 id, hiff.not.2 hbind⟩
  · exact .inl ⟨(writeReg_fault ..).trans hf, writeReg_cause .., (accepts_iff hp _).not.2 id,
      (accepts_iff hp _).not.2 id⟩
  · exact .inl ⟨hf, rfl, (accepts_iff hp _).not.2 id, (accepts_iff hp _).not.2 id⟩
  · obtain ⟨_, _, rfl⟩ := hostFill_next hfill
    exact .inl ⟨hf, rfl, (accepts_iff hp _).not.2 id, (accepts_iff hp _).not.2 id⟩
  · exact .inr (.inr ⟨rfl, rfl, (accepts_iff hp _).2 ha⟩)

end Sys2Proof.Machine

/-! PROOF. Reset and hazards (70_reset_and_hazards.md R220, R222, R228): what `rst` leaves of the block
and of a command it abandons, what a fill changes, and how long READ_SEQ can go on. -/

namespace Sys2Proof.Machine

/-! `rst` (70_reset_and_hazards.md R220). -/

/-- Of what a command drives on its ports only the last event, its response, is no traffic. -/
theorem trafficOf_exec {i : Instr} {s t : State} (hs : s.io = []) (h : exec i s = .next t) :
    trafficOf (exec i s) = t.io.dropLast := by
  obtain ⟨r, hio⟩ := exec_io hs h
  rw [h, hio, List.dropLast_concat]

/-- Settles O2: either form of `rst` steps to the reset block over the same source; the traffic left
of an abandoned command is a piece of what it drives before its response (`trafficOf_exec`). -/
theorem rstPutsEveryRegisterToItsResetValue : Obligations.RstPutsEveryRegisterToItsResetValue := by
  intro s a rest hp ha
  cases a with
  | command | writeReg | readReg | fill => cases ha
  | rst => exact ⟨_, step_of_pending hp, rfl, rfl, rfl, rfl, rfl, rfl, rfl, rfl, fun _ => rfl, nofun⟩
  | rstDuring code seen =>
    refine ⟨_, step_of_pending hp, rfl, rfl, rfl, rfl, rfl, rfl, rfl,
      responses_take_trafficOf _ seen, nofun, fun _ _ u hcmd hu => ?_⟩
    cases hcmd
    have htraffic := trafficOf_exec (s := s.accept rest) rfl hu
    show (trafficOf _).take seen <+: _ ∧ ((trafficOf _).take seen).length = _
    rw [htraffic, List.length_take, List.length_dropLast]
    exact ⟨(List.take_prefix ..).trans (List.dropLast_prefix _), rfl⟩

/-! Filling the source (70_reset_and_hazards.md R222, 60_exceptions.md R206). -/

/-- Every byte after a write of several: the one written there, or the one before. -/
theorem Memory.read_writeList {m : Memory} (hm : m.wf = true) (a : Nat) (vs : List Byte) (o : Nat) :
    (m.writeList a vs).read o =
      if a ≤ o ∧ o < a + vs.length then vs.getD (o - a) 0 else m.read o := by
  split
  · next hin =>
    obtain ⟨i, rfl⟩ := Nat.exists_eq_add_of_le hin.1
    rw [Memory.read_writeList_at hm a vs (by omega), Nat.add_sub_cancel_left]
  · next hout => exact Memory.read_writeList_other _ _ _ (by omega)

/-- A fill within the offset space writes the source of an unbound reader. -/
theorem hostFill_of_unbound {off : Nat} {bs : List Byte} {s : State} (hb : s.status.bound = false)
    (hfit : off + bs.length ≤ 2 ^ s.cfg.aw - 1) :
    hostFill off bs s = .next { s with src := s.src.writeList off bs } := by
  rw [hostFill, if_neg fun hpast => Nat.not_lt.2 hfit hpast.2, hb, Bool.false_and]
  rfl

/-- Settles O50: `hostFill_of_unbound`, and `Memory.read_writeList` for the bytes after it. -/
theorem fillWritesTheSourceWhileUnbound : Obligations.FillWritesTheSourceWhileUnbound := by
  intro s off bs rest hp hwf hb hfit
  exact ⟨s.src.writeList off bs,
    (step_of_pending hp).trans (hostFill_of_unbound (s := s.accept rest) hb hfit),
    Memory.wf_writeList hwf off bs, Memory.read_writeList hwf off bs⟩

/-! The bound of READ_SEQ (70_reset_and_hazards.md R228). -/

/-- What a DECODE leaves that latches no fault: a reader that can go on, further into the source. -/
structure GoesOn (s t : State) : Prop where
  legal : t.Legal
  ready : t.Ready
  srcLen : t.srcLen = s.srcLen
  moves : s.cursor < t.cursor
  inside : t.cursor ≤ s.srcLen

/-- A DECODE of a ready reader latches a fault, or goes on. -/
theorem State.Legal.step_decode {s : State} (h : s.Legal) (hr : s.Ready) :
    ∃ t, step (s.present (.command decodeCode)) = .next t ∧
      (t.status.fault = true ∨ GoesOn s t) := by
  have hs := h.accept s.pending
  obtain ⟨t, ht⟩ := exec_next .decode (s.accept s.pending)
  refine ⟨t, ht, ?_⟩
  cases hf : t.status.fault with
  | true => exact .inl rfl
  | false =>
    obtain ⟨_, hfound, hcursor⟩ := exec_found_of_noFault (.inl rfl) ht hf
    obtain ⟨_, _, _, hinside, _⟩ := successNeverPassesTheTrueEnd _ _ t hs (.inl rfl) ht hf
    have hlen := (findTerm_ok_range hfound).1
    have hbound : t.status.bound = s.status.bound :=
      not_not.1 (mt (exec_commandWrites rfl ht).bound (by decide))
    rw [accept_cursor] at hcursor
    exact .inr
      { legal := hs.exec ht
        ready := ⟨hbound.trans hr.bound, hf⟩
        srcLen := (exec_keepsSource ht).srcLen
        moves := by omega
        inside := hinside }

/-- READ_SEQ is over when a DECODE has met the end of the sequence or a fault. -/
theorem readSeq_succ_of_over {s t : State} (h : step (s.present (.command decodeCode)) = .next t)
    (hover : t.status.eos = true ∨ t.status.fault = true) (fuel : Nat) :
    readSeq (fuel + 1) s = some { values := [], decodes := 1, last := t } := by
  simp only [readSeq, h, Bool.or_eq_true, if_pos hover]

/-- READ_SEQ is over within more commands than bytes are left, by induction on the commands: each
DECODE that does not end it moves the cursor on. -/
theorem exists_readSeq_of_lt {n : Nat} {s : State} (h : s.Legal) (hr : s.Ready)
    (hn : s.srcLen - s.cursor < n) :
    ∃ r, readSeq n s = some r ∧ r.decodes ≤ n ∧
      (r.last.status.eos = true ∨ r.last.status.fault = true) := by
  induction n generalizing s with
  | zero => exact absurd hn (Nat.not_lt_zero _)
  | succ n ih =>
    obtain ⟨t, ht, hgoes⟩ := h.step_decode hr
    by_cases hover : t.status.eos = true ∨ t.status.fault = true
    · exact ⟨_, readSeq_succ_of_over ht hover n, Nat.le_add_left 1 n, hover⟩
    · obtain ⟨heos, hfault⟩ := not_or.1 hover
      obtain ⟨hlegal, hready, hlen, hmoves, hinside⟩ := hgoes.resolve_left hfault
      obtain ⟨r, hrun, hdecodes, hlast⟩ := ih hlegal hready (by omega)
      rw [readSeq_succ_of_value ht (eq_false_of_ne_true heos) hready.noFault, hrun, Option.map_some]
      exact ⟨_, rfl, Nat.succ_le_succ hdecodes, hlast⟩

/-- Settles O60: one command more than bytes are left. -/
theorem readSeqIsOverBeforeTheSourceIs : Obligations.ReadSeqIsOverBeforeTheSourceIs :=
  fun _ h hr _ => exists_readSeq_of_lt h hr (Nat.lt_succ_self _)

end Sys2Proof.Machine
